-- ==== Sys2Proof/Word.lean ====
section
/-! DEFINITION. The bit-vector types the block's interface is made of. -/

namespace Sys2Proof

/-- An operand word of a frame, a result, or a variable of at most 32 bits (spec/30_encoding.md R81, R87). -/
abbrev Word := BitVec 32

/-- One byte: the only width in which the block moves data (spec/20_memory.md R61, R66). -/
abbrev Byte := BitVec 8

/-- One command frame (spec/30_encoding.md R80). -/
abbrev Frame := BitVec 128

end Sys2Proof
end

