-- ==== Sys2Proof/Config.lean ====
section
/-! DEFINITION. What an implementation fixes: the parameters of spec/00_scope.md R7, the constants of R6, and the
free values that stand for what the spec leaves unspecified. -/

namespace Sys2Proof

/-- The named parameters of spec/00_scope.md R7, which the spec leaves open (U13, D8). A machine carries its own
(State's field cfg) and no step changes them, so a statement over every state is a statement over every
configuration. DESIGN CHOICE, log 1. -/
structure Config where
  /-- `W_MS`: width of the millisecond counter, of an interval and of a last-fired timestamp. -/
  wMs : Nat
  /-- `W_S`: width of the seconds counter. -/
  wS : Nat
  /-- `N_CH`: number of analog channels scanned. -/
  nCh : Nat
  /-- `W_SAMPLE`: width of one raw conversion result. -/
  wSample : Nat
  /-- `NV_SIZE`: number of bytes of the non-volatile store. -/
  nvSize : Nat
  /-- `W_ID`: width of an event identifier. -/
  wId : Nat
  /-- `W_ADDR`: width of a host-memory address. -/
  wAddr : Nat
  /-- `EXT_LATCH`: whether a falling edge on a disabled line is remembered. -/
  extLatch : Bool
deriving DecidableEq, Repr

/-- The constraints of R7's table. -/
abbrev Config.valid (p : Config) : Prop :=
  (1 ≤ p.wMs ∧ p.wMs ≤ 32) ∧ (1 ≤ p.wS ∧ p.wS ≤ 32) ∧ (1 ≤ p.nCh ∧ p.nCh ≤ 2 ^ 32 - 1) ∧
  (1 ≤ p.wSample ∧ p.wSample ≤ 29) ∧ (1 ≤ p.nvSize ∧ p.nvSize ≤ 2 ^ 32 - 1) ∧
  (5 ≤ p.wId ∧ p.wId ≤ 32) ∧ (1 ≤ p.wAddr ∧ p.wAddr ≤ 32)

/-- REFCFG, the reference configuration of R7. -/
def Config.ref : Config :=
  { wMs := 32, wS := 32, nCh := 3, wSample := 10, nvSize := 1024, wId := 8, wAddr := 16, extLatch := false }

/-- `EVT_MAX` (R6): the most events that may be live. -/
abbrev evtMax : Nat := 20

/-- `MS_PER_S` (R6): the increments of `ms` that make one increment of `sec`. -/
abbrev msPerS : Nat := 1000

/-! The other constants of R6 are the types of State: ADC_DEPTH = 8 slots, SER_DEPTH = 128 bytes, EXT_LINES = 2. -/

/-- FREE VALUE (log 9): the content of slot `k` of channel `c` after the `draw`-th hardware reset (R51, R260, U8). -/
opaque Config.freeSample : (draw c k : Nat) → Word

/-- FREE VALUE (log 9): the converter's power state after a hardware reset (R51, R260, U8). -/
opaque Config.freeAdcOn : (draw : Nat) → Bool

/-- FREE VALUE (log 9): `nv_addr` after a hardware reset (R51, R260, U8). -/
opaque Config.freeNvAddr : (draw : Nat) → Word

/-- FREE VALUE (log 9): `nv_rem` after a hardware reset (R51, R260, U8). -/
opaque Config.freeNvRem : (draw : Nat) → Word

/-- FREE VALUE (log 9): `nv_src` after a hardware reset (R51, R260, U8). -/
opaque Config.freeNvSrc : (draw : Nat) → Word

/-- FREE VALUE (log 9): byte `k` of `tx_buf` after a hardware reset (R51, R260, U8). -/
opaque Config.freeTxByte : (draw k : Nat) → Byte

/-- FREE VALUE (log 9): byte `k` of `rx_buf` after a hardware reset (R51, R260, U8). -/
opaque Config.freeRxByte : (draw k : Nat) → Byte

/-- FREE VALUE (log 9, log 13): the store byte whose write was under way at a hardware reset (R263, U11). -/
opaque Config.freeNvByte : (draw : Nat) → Byte

end Sys2Proof
end

