-- ==== Sys2Proof/Syntax.lean ====
section
/-! DEFINITION. The 25 frames of the block as syntax: the 19 host operations of spec/30_encoding.md R84 and the six
environment events of R85. -/

namespace Sys2Proof

/-- One of the two external lines (`EXT_LINES = 2`, spec/00_scope.md R6). -/
inductive Line where
  | ext0
  | ext1
deriving DecidableEq, Repr

/-- The operation or event a frame's opcode byte selects (R84, R85). -/
inductive Opcode where
  | nowMs | nowS
  | adcStart | adcRead | adcPower
  | nvBusy | nvWrite | nvRead
  | serConfig | serPushTx | serPopTx | serSendStr | serPopRx
  | extBind
  | evtRegister | evtModify | evtUnregister | evtRefresh | evtCbDone
  | evTick | evAdcDone | evNvReady | evSerRx | evSerTxc | evExt
deriving DecidableEq, Repr

/-- How many operand words a frame uses (R82). -/
inductive Format where
  | n | a | ab | abc
deriving DecidableEq, Repr

/-- A frame with its operands. An operand whose range is fixed (a byte, a line, on or off) has that type; one whose
range is a parameter of R7, or any 32-bit value, is the frame's own word (R89, R94). -/
inductive Instr where
  /-- `NOW_MS`, R110. -/
  | nowMs
  /-- `NOW_S`, R111. -/
  | nowS
  /-- `ADC_START`, R120. -/
  | adcStart
  /-- `ADC_READ channel`, R121. -/
  | adcRead (channel : Word)
  /-- `ADC_POWER on`, R122. -/
  | adcPower (on : Bool)
  /-- `NV_BUSY`, R140. -/
  | nvBusy
  /-- `NV_WRITE address, source, size`, R141. -/
  | nvWrite (address source size : Word)
  /-- `NV_READ address, destination, size`, R143. -/
  | nvRead (address destination size : Word)
  /-- `SER_CONFIG`, R161. -/
  | serConfig
  /-- `SER_PUSH_TX byte`, R162. -/
  | serPushTx (byte : Byte)
  /-- `SER_POP_TX`, R163. -/
  | serPopTx
  /-- `SER_SEND_STR text`, R164. -/
  | serSendStr (text : Word)
  /-- `SER_POP_RX`, R165. -/
  | serPopRx
  /-- `EXT_BIND line, handler`, R187. -/
  | extBind (line : Line) (handler : Word)
  /-- `EVT_REGISTER interval, callback`, R202. -/
  | evtRegister (interval callback : Word)
  /-- `EVT_MODIFY id, interval, callback`, R204. -/
  | evtModify (id interval callback : Word)
  /-- `EVT_UNREGISTER id`, R205. -/
  | evtUnregister (id : Word)
  /-- `EVT_REFRESH`, R206. -/
  | evtRefresh
  /-- `EVT_CB_DONE`, R213. -/
  | evtCbDone
  /-- `EV_TICK`, R112. -/
  | evTick
  /-- `EV_ADC_DONE sample`, R123. -/
  | evAdcDone (sample : Word)
  /-- `EV_NV_READY`, R142. -/
  | evNvReady
  /-- `EV_SER_RX byte`, R166. -/
  | evSerRx (byte : Byte)
  /-- `EV_SER_TXC`, R167. -/
  | evSerTxc
  /-- `EV_EXT line`, R188. -/
  | evExt (line : Line)
deriving DecidableEq, Repr

end Sys2Proof
end

