-- ==== Sys2Proof/WellFormed.lean ====
section
/-! DEFINITION. Which instructions are well formed: the operand ranges of spec/30_encoding.md R89 that depend on the
parameters (the fixed ranges are the operands' types). -/

namespace Sys2Proof

/-- The range test of R89 under the parameters `p`. -/
def Instr.wf (p : Config) : Instr → Bool
  | .nowMs => true
  | .nowS => true
  | .adcStart => true
  | .adcRead ch => ch.toNat < p.nCh
  | .adcPower _ => true
  | .nvBusy => true
  | .nvWrite _ src _ => src.toNat < 2 ^ p.wAddr
  | .nvRead _ dst _ => dst.toNat < 2 ^ p.wAddr
  | .serConfig => true
  | .serPushTx _ => true
  | .serPopTx => true
  | .serSendStr text => text.toNat < 2 ^ p.wAddr
  | .serPopRx => true
  | .extBind _ _ => true
  | .evtRegister interval _ => interval.toNat < 2 ^ p.wMs
  | .evtModify id interval _ => decide (id.toNat < 2 ^ p.wId) && decide (interval.toNat < 2 ^ p.wMs)
  | .evtUnregister id => id.toNat < 2 ^ p.wId
  | .evtRefresh => true
  | .evtCbDone => true
  | .evTick => true
  | .evAdcDone sample => sample.toNat < 2 ^ p.wSample
  | .evNvReady => true
  | .evSerRx _ => true
  | .evSerTxc => true
  | .evExt _ => true

end Sys2Proof
end

