-- ==== Sys2Proof/Decode.lean ====
section
/-! DEFINITION. From frames and bytes to instructions and back (spec/30_encoding.md R80 to R86, R89, R91, R94), and the
rows of spec/opcode_table.json. -/

namespace Sys2Proof

/-- `F[7:0]` (R81). -/
def opcodeByte (F : Frame) : Byte := F.extractLsb' 0 8

/-- `F[31:8]`, the reserved field (R81). -/
def reservedField (F : Frame) : BitVec 24 := F.extractLsb' 8 24

/-- Operand word `A`, `F[63:32]` (R81). -/
def wordA (F : Frame) : Word := F.extractLsb' 32 32

/-- Operand word `B`, `F[95:64]` (R81). -/
def wordB (F : Frame) : Word := F.extractLsb' 64 32

/-- Operand word `C`, `F[127:96]` (R81). -/
def wordC (F : Frame) : Word := F.extractLsb' 96 32

/-- Opcode bit 7 is 1 for every stimulus frame and 0 for every host operation (R85). DESIGN CHOICE, log 20: a frame
whose opcode is not assigned is told by the same bit, so `0x86` to `0xFF` count as the environment's. -/
def isStimulus (F : Frame) : Bool := (opcodeByte F).getLsbD 7

/-- The opcode column of R84 and R85. -/
def Opcode.code : Opcode → Byte
  | .nowMs => 0x10#8
  | .nowS => 0x11#8
  | .adcStart => 0x20#8
  | .adcRead => 0x21#8
  | .adcPower => 0x22#8
  | .nvBusy => 0x30#8
  | .nvWrite => 0x31#8
  | .nvRead => 0x32#8
  | .serConfig => 0x40#8
  | .serPushTx => 0x41#8
  | .serPopTx => 0x42#8
  | .serSendStr => 0x43#8
  | .serPopRx => 0x44#8
  | .extBind => 0x50#8
  | .evtRegister => 0x60#8
  | .evtModify => 0x61#8
  | .evtUnregister => 0x62#8
  | .evtRefresh => 0x63#8
  | .evtCbDone => 0x64#8
  | .evTick => 0x80#8
  | .evAdcDone => 0x81#8
  | .evNvReady => 0x82#8
  | .evSerRx => 0x83#8
  | .evSerTxc => 0x84#8
  | .evExt => 0x85#8

/-- The format column of R84 and R85. -/
def Opcode.format : Opcode → Format
  | .nowMs | .nowS | .adcStart | .nvBusy | .serConfig | .serPopTx | .serPopRx | .evtRefresh | .evtCbDone
  | .evTick | .evNvReady | .evSerTxc => .n
  | .adcRead | .adcPower | .serPushTx | .serSendStr | .evtUnregister | .evAdcDone | .evSerRx | .evExt => .a
  | .extBind | .evtRegister => .ab
  | .nvWrite | .nvRead | .evtModify => .abc

/-- Every opcode, in the order of the tables of R84 and R85. -/
def Opcode.all : List Opcode :=
  [.nowMs, .nowS, .adcStart, .adcRead, .adcPower, .nvBusy, .nvWrite, .nvRead,
   .serConfig, .serPushTx, .serPopTx, .serSendStr, .serPopRx, .extBind] ++
  [.evtRegister, .evtModify, .evtUnregister, .evtRefresh, .evtCbDone,
   .evTick, .evAdcDone, .evNvReady, .evSerRx, .evSerTxc, .evExt]

/-- The opcode a byte stands for; none for the reserved values of R90. -/
def Opcode.ofCode (b : Byte) : Option Opcode := Opcode.all.find? (fun op => op.code == b)

/-- R86 step 3: every operand word the format does not use is 0 (R82). -/
def unusedWordsZero (fmt : Format) (a b c : Word) : Bool :=
  match fmt with
  | .n => a == 0 && b == 0 && c == 0
  | .a => b == 0 && c == 0
  | .ab => c == 0
  | .abc => true

/-- The narrow operand of a word that must be 0 or 1 (`ADC_POWER`, R89). -/
def boolOperand (w : Word) : Option Bool := if w = 0 then some false else if w = 1 then some true else none

/-- The narrow operand of a word that names a line (`EXT_BIND`, `EV_EXT`, R89). -/
def lineOperand (w : Word) : Option Line := if w = 0 then some .ext0 else if w = 1 then some .ext1 else none

/-- The narrow operand of a word that holds a byte (`SER_PUSH_TX`, `EV_SER_RX`, R89). -/
def byteOperand (w : Word) : Option Byte := if w.toNat ≤ 255 then some (w.extractLsb' 0 8) else none

/-- The instruction an opcode makes of its operand words; none where an operand of fixed range is outside it (R89). -/
def Opcode.build (op : Opcode) (a b c : Word) : Option Instr :=
  match op with
  | .nowMs => some .nowMs
  | .nowS => some .nowS
  | .adcStart => some .adcStart
  | .adcRead => some (.adcRead a)
  | .adcPower => (boolOperand a).map .adcPower
  | .nvBusy => some .nvBusy
  | .nvWrite => some (.nvWrite a b c)
  | .nvRead => some (.nvRead a b c)
  | .serConfig => some .serConfig
  | .serPushTx => (byteOperand a).map .serPushTx
  | .serPopTx => some .serPopTx
  | .serSendStr => some (.serSendStr a)
  | .serPopRx => some .serPopRx
  | .extBind => (lineOperand a).map (fun l => .extBind l b)
  | .evtRegister => some (.evtRegister a b)
  | .evtModify => some (.evtModify a b c)
  | .evtUnregister => some (.evtUnregister a)
  | .evtRefresh => some .evtRefresh
  | .evtCbDone => some .evtCbDone
  | .evTick => some .evTick
  | .evAdcDone => some (.evAdcDone a)
  | .evNvReady => some .evNvReady
  | .evSerRx => (byteOperand a).map .evSerRx
  | .evSerTxc => some .evSerTxc
  | .evExt => (lineOperand a).map .evExt

/-- Why a frame is illegal: the four tests of R86, and a byte string that is no whole frame (R91). -/
inductive Illegal where
  /-- Fewer than 16 bytes. -/
  | shortFrame
  /-- R86 step 1: `F[31:8] != 0`. -/
  | reservedBits
  /-- R86 step 2: the opcode is not assigned. -/
  | unassignedOpcode
  /-- R86 step 3: an unused operand word is not 0. -/
  | unusedOperand
  /-- R86 step 4: an operand is outside its range of R89. -/
  | operandRange
deriving DecidableEq, Repr

/-- Decoding (R86): the first test that fails decides. It reads the frame and the parameters alone. -/
def decode (p : Config) (F : Frame) : Except Illegal Instr :=
  if reservedField F ≠ 0 then .error .reservedBits
  else
    match Opcode.ofCode (opcodeByte F) with
    | none => .error .unassignedOpcode
    | some op =>
      if unusedWordsZero op.format (wordA F) (wordB F) (wordC F) then
        match op.build (wordA F) (wordB F) (wordC F) with
        | none => .error .operandRange
        | some i => if i.wf p then .ok i else .error .operandRange
      else .error .unusedOperand

/-- The frame `C ++ B ++ A ++ rsv ++ opcode` with `rsv = 0` (R81). -/
def frameOf (op : Opcode) (a b c : Word) : Frame := c ++ b ++ a ++ 0#24 ++ op.code

/-- The opcode of an instruction. -/
def Instr.opcode : Instr → Opcode
  | .nowMs => .nowMs
  | .nowS => .nowS
  | .adcStart => .adcStart
  | .adcRead _ => .adcRead
  | .adcPower _ => .adcPower
  | .nvBusy => .nvBusy
  | .nvWrite _ _ _ => .nvWrite
  | .nvRead _ _ _ => .nvRead
  | .serConfig => .serConfig
  | .serPushTx _ => .serPushTx
  | .serPopTx => .serPopTx
  | .serSendStr _ => .serSendStr
  | .serPopRx => .serPopRx
  | .extBind _ _ => .extBind
  | .evtRegister _ _ => .evtRegister
  | .evtModify _ _ _ => .evtModify
  | .evtUnregister _ => .evtUnregister
  | .evtRefresh => .evtRefresh
  | .evtCbDone => .evtCbDone
  | .evTick => .evTick
  | .evAdcDone _ => .evAdcDone
  | .evNvReady => .evNvReady
  | .evSerRx _ => .evSerRx
  | .evSerTxc => .evSerTxc
  | .evExt _ => .evExt

/-- The word of a line number (R89). -/
def lineWord : Line → Word
  | .ext0 => 0
  | .ext1 => 1

/-- Operand word `A` of an instruction; 0 where its format uses none (R82). -/
def Instr.operandA : Instr → Word
  | .adcRead ch => ch
  | .adcPower on => if on then 1 else 0
  | .nvWrite a _ _ => a
  | .nvRead a _ _ => a
  | .serPushTx byte => byte.setWidth 32
  | .serSendStr text => text
  | .extBind l _ => lineWord l
  | .evtRegister interval _ => interval
  | .evtModify id _ _ => id
  | .evtUnregister id => id
  | .evAdcDone sample => sample
  | .evSerRx byte => byte.setWidth 32
  | .evExt l => lineWord l
  | .nowMs | .nowS | .adcStart | .nvBusy | .serConfig | .serPopTx | .serPopRx | .evtRefresh | .evtCbDone
  | .evTick | .evNvReady | .evSerTxc => 0

/-- Operand word `B` of an instruction; 0 where its format uses none (R82). -/
def Instr.operandB : Instr → Word
  | .nvWrite _ b _ => b
  | .nvRead _ b _ => b
  | .extBind _ h => h
  | .evtRegister _ cb => cb
  | .evtModify _ interval _ => interval
  | .adcRead _ | .adcPower _ | .serPushTx _ | .serSendStr _ | .evtUnregister _ | .evAdcDone _ | .evSerRx _ | .evExt _
  | .nowMs | .nowS | .adcStart | .nvBusy | .serConfig | .serPopTx | .serPopRx | .evtRefresh | .evtCbDone
  | .evTick | .evNvReady | .evSerTxc => 0

/-- Operand word `C` of an instruction; 0 where its format uses none (R82). -/
def Instr.operandC : Instr → Word
  | .nvWrite _ _ c => c
  | .nvRead _ _ c => c
  | .evtModify _ _ cb => cb
  | .extBind _ _ | .evtRegister _ _
  | .adcRead _ | .adcPower _ | .serPushTx _ | .serSendStr _ | .evtUnregister _ | .evAdcDone _ | .evSerRx _ | .evExt _
  | .nowMs | .nowS | .adcStart | .nvBusy | .serConfig | .serPopTx | .serPopRx | .evtRefresh | .evtCbDone
  | .evTick | .evNvReady | .evSerTxc => 0

/-- The frame of an instruction (R81, R82, R84, R85). -/
def encode (i : Instr) : Frame := frameOf i.opcode i.operandA i.operandB i.operandC

/-- R83: a frame as 16 bytes, least significant first; byte `i` is `F[8i+7 : 8i]`. -/
def frameBytes (F : Frame) : List Byte := (List.range 16).map (fun i => F.extractLsb' (8 * i) 8)

/-- R83 read back: the frame whose byte `i` is the list's element `i`. -/
def frameOfBytes (bs : List Byte) : Frame :=
  BitVec.ofNat 128 (bs.foldr (fun b n => b.toNat + 256 * n) 0)

/-- Decoding bytes: a frame is always 16 of them (R83, R91); the rest of the list is handed back. -/
def decodeBytes (p : Config) (bs : List Byte) : Except Illegal (Instr × List Byte) :=
  if bs.length < 16 then .error .shortFrame
  else
    match decode p (frameOfBytes (bs.take 16)) with
    | .ok i => .ok (i, bs.drop 16)
    | .error e => .error e

/-- The bytes of an instruction (R83). -/
def encodeBytes (i : Instr) : List Byte := frameBytes (encode i)

/-- The instruction the decoder reads, under REFCFG, from a frame numbered as spec/opcode_table.json numbers it. -/
def decodeTableWord (nbits w : Nat) : Option Instr :=
  match decodeBytes Config.ref (frameBytes (BitVec.ofNat 128 (w % 2 ^ nbits))) with
  | .ok (i, _) => some i
  | .error _ => none

/-- The column "mask" of spec/opcode_table.json. -/
def Opcode.tableMask : Opcode → Frame
  | .nowMs => 0xFFFFFFFFFFFFFFFFFFFFFFFFFFFFFFFF#128
  | .nowS => 0xFFFFFFFFFFFFFFFFFFFFFFFFFFFFFFFF#128
  | .adcStart => 0xFFFFFFFFFFFFFFFFFFFFFFFFFFFFFFFF#128
  | .adcRead => 0xFFFFFFFFFFFFFFFF00000000FFFFFFFF#128
  | .adcPower => 0xFFFFFFFFFFFFFFFF00000000FFFFFFFF#128
  | .nvBusy => 0xFFFFFFFFFFFFFFFFFFFFFFFFFFFFFFFF#128
  | .nvWrite => 0x000000000000000000000000FFFFFFFF#128
  | .nvRead => 0x000000000000000000000000FFFFFFFF#128
  | .serConfig => 0xFFFFFFFFFFFFFFFFFFFFFFFFFFFFFFFF#128
  | .serPushTx => 0xFFFFFFFFFFFFFFFF00000000FFFFFFFF#128
  | .serPopTx => 0xFFFFFFFFFFFFFFFFFFFFFFFFFFFFFFFF#128
  | .serSendStr => 0xFFFFFFFFFFFFFFFF00000000FFFFFFFF#128
  | .serPopRx => 0xFFFFFFFFFFFFFFFFFFFFFFFFFFFFFFFF#128
  | .extBind => 0xFFFFFFFF0000000000000000FFFFFFFF#128
  | .evtRegister => 0xFFFFFFFF0000000000000000FFFFFFFF#128
  | .evtModify => 0x000000000000000000000000FFFFFFFF#128
  | .evtUnregister => 0xFFFFFFFFFFFFFFFF00000000FFFFFFFF#128
  | .evtRefresh => 0xFFFFFFFFFFFFFFFFFFFFFFFFFFFFFFFF#128
  | .evtCbDone => 0xFFFFFFFFFFFFFFFFFFFFFFFFFFFFFFFF#128
  | .evTick => 0xFFFFFFFFFFFFFFFFFFFFFFFFFFFFFFFF#128
  | .evAdcDone => 0xFFFFFFFFFFFFFFFF00000000FFFFFFFF#128
  | .evNvReady => 0xFFFFFFFFFFFFFFFFFFFFFFFFFFFFFFFF#128
  | .evSerRx => 0xFFFFFFFFFFFFFFFF00000000FFFFFFFF#128
  | .evSerTxc => 0xFFFFFFFFFFFFFFFFFFFFFFFFFFFFFFFF#128
  | .evExt => 0xFFFFFFFFFFFFFFFF00000000FFFFFFFF#128

/-- The column "match" of spec/opcode_table.json. -/
def Opcode.tableMatch : Opcode → Frame
  | .nowMs => 0x00000000000000000000000000000010#128
  | .nowS => 0x00000000000000000000000000000011#128
  | .adcStart => 0x00000000000000000000000000000020#128
  | .adcRead => 0x00000000000000000000000000000021#128
  | .adcPower => 0x00000000000000000000000000000022#128
  | .nvBusy => 0x00000000000000000000000000000030#128
  | .nvWrite => 0x00000000000000000000000000000031#128
  | .nvRead => 0x00000000000000000000000000000032#128
  | .serConfig => 0x00000000000000000000000000000040#128
  | .serPushTx => 0x00000000000000000000000000000041#128
  | .serPopTx => 0x00000000000000000000000000000042#128
  | .serSendStr => 0x00000000000000000000000000000043#128
  | .serPopRx => 0x00000000000000000000000000000044#128
  | .extBind => 0x00000000000000000000000000000050#128
  | .evtRegister => 0x00000000000000000000000000000060#128
  | .evtModify => 0x00000000000000000000000000000061#128
  | .evtUnregister => 0x00000000000000000000000000000062#128
  | .evtRefresh => 0x00000000000000000000000000000063#128
  | .evtCbDone => 0x00000000000000000000000000000064#128
  | .evTick => 0x00000000000000000000000000000080#128
  | .evAdcDone => 0x00000000000000000000000000000081#128
  | .evNvReady => 0x00000000000000000000000000000082#128
  | .evSerRx => 0x00000000000000000000000000000083#128
  | .evSerTxc => 0x00000000000000000000000000000084#128
  | .evExt => 0x00000000000000000000000000000085#128

end Sys2Proof
end

