-- ==== Sys2Proof/Machine/State.lean ====
section
/-! DEFINITION. The state of the block (spec/10_state.md R20 to R37), its outputs, the turns of the outside world, the
reasons a step can stop, and the state after reset (R37, R51, R260). -/

namespace Sys2Proof.Machine

/-- A byte memory: the cells that differ from what an unlisted address reads as, addresses strictly rising
(`Memory.wf`). Host memory (spec/20_memory.md R61) and the non-volatile store (R62) are each one. -/
abbrev Memory := List Host.Cell

/-- What an unlisted address reads as. DESIGN CHOICE, unsafe: log 10 (host memory), log 11 (the store). -/
def Memory.unlisted : Byte := 0

/-- Tick Source, R22. -/
structure TickSource where
  ms : Word
  sub : BitVec 10
  sec : Word
deriving DecidableEq, Repr

/-- The circular buffer and the write index of one analog channel, R24. -/
structure Channel where
  slots : Vector Word 8
  idx : BitVec 3
deriving DecidableEq, Repr

/-- Averaging Sampler, R24: `adc_buf` and `adc_idx` by channel, `adc_ch`, `adc_on`, `adc_inflight`. -/
structure Sampler where
  channels : List Channel
  ch : Nat
  on : Bool
  inflight : Bool
deriving DecidableEq, Repr

/-- Async Non-Volatile Writer, R27: `nv_busy`, `nv_ie`, `nv_addr`, `nv_rem`, `nv_src` and `nv[]`. `first` is "the job's
first address" of R263, kept for that rule alone (log 13). -/
structure NvWriter where
  busy : Bool
  ie : Bool
  addr : Word
  rem : Word
  src : Word
  first : Word
  store : Memory
deriving DecidableEq, Repr

/-- One circular byte queue, R29: the buffer, the "in" (producer) and the "out" (consumer) index. -/
structure Queue where
  buf : Vector Byte 128
  inp : BitVec 7
  out : BitVec 7
deriving DecidableEq, Repr

/-- Duplex Serial Driver, R29: the two queues, `tx_busy` and `ser_on`. -/
structure Serial where
  tx : Queue
  rx : Queue
  txBusy : Bool
  on : Bool
deriving DecidableEq, Repr

/-- One external line, R31: `ext_h`, `ext_ie`, `ext_latched`. -/
structure Binding where
  handler : Word
  ie : Bool
  latched : Bool
deriving DecidableEq, Repr

/-- External Signal Dispatch, R31: one slot per line. -/
structure ExtDispatch where
  ext0 : Binding
  ext1 : Binding
deriving DecidableEq, Repr

/-- A scheduled event, R33. -/
structure Event where
  id : Word
  interval : Word
  last : Word
  cb : Word
deriving DecidableEq, Repr

/-- Where a refresh pass stands, R34. -/
inductive Walk where
  | idle
  | walking (now : Word) (pos : Nat)
  | waitCb (now : Word) (pos : Nat)
deriving DecidableEq, Repr

/-- Event Scheduler, R33 and R34: `ev_list` in registration order, `next_id`, `prev_ms`, `walk`. -/
structure Scheduler where
  events : List Event
  nextId : Word
  prevMs : Word
  walk : Walk
deriving DecidableEq, Repr

/-- Where an `Invoke` comes from, R50. -/
inductive Site where
  | ext0
  | ext1
  | sched
deriving DecidableEq, Repr

/-- An event of the output trace, R50. -/
inductive TraceEvent where
  | convert (ch : Nat)
  | txByte (b : Byte)
  | nvWrite (addr : Nat) (b : Byte)
  | nvRead (addr : Nat)
  | invoke (site : Site) (kind : BitVec 1) (ref id : Word)
deriving DecidableEq, Repr

/-- The status codes by name, spec/30_encoding.md R88. -/
inductive Status where
  | ok
  | rejectedBusy
  | capacityExceeded
  | notFound
  | empty
  | rejectedArg
  | notEnabled
  | illegal
deriving DecidableEq, Repr

/-- A result pair, R87, with the operation it answers (none for an illegal frame). -/
structure Answer where
  op : Option Opcode
  status : Status
  res : Word
deriving DecidableEq, Repr

/-- The two contexts in which host code runs, spec/60_exceptions.md R242. -/
inductive Context where
  | foreground
  | interrupt
deriving DecidableEq, Repr

/-- A byte-wise composite operation between two of its steps (spec/00_scope.md R12): `NV_READ` with its operands and
loop variable (R143), or `SER_SEND_STR` with its pointer (R164). An `EVT_REFRESH` under way is `Scheduler.walk`. -/
inductive Transfer where
  | nvRead (address destination size : Word) (i : Nat)
  | sendStr (p : Word)
deriving DecidableEq, Repr

/-- What the outside world does next; the list of them is the choice that R70, R236 and R238 leave to it (log 3). -/
inductive Turn where
  /-- A frame at the command port or, with opcode bit 7 set, a stimulus frame (R80, R85). The context says which host
  agent issues a host operation (R9, R245); it is not read for a stimulus frame. -/
  | frame (ctx : Context) (F : Frame)
  /-- The agent whose byte-wise composite operation is under way takes its next step (R12). -/
  | goOn
  /-- Host code stores a byte into its own memory (R61, R75). -/
  | store (addr : Nat) (b : Byte)
  /-- Hardware reset (R260). -/
  | reset
deriving DecidableEq, Repr

/-- The state: one field per unit, host memory, the outputs, and the model's own bookkeeping. -/
structure State where
  /-- The parameters of R7 this machine is built with; no step changes them (log 1). -/
  cfg : Config
  tick : TickSource
  adc : Sampler
  nv : NvWriter
  ser : Serial
  ext : ExtDispatch
  sched : Scheduler
  /-- Host memory, R61. -/
  mem : Memory
  /-- The output trace, R50. -/
  trace : List TraceEvent
  /-- The result pairs given so far, oldest first (R87, log 7). -/
  answers : List Answer
  /-- Which host agent issued the frame being executed (R245, log 5). -/
  ctx : Context
  /-- The foreground host's composite operation under way, if any (R12, log 4). -/
  fgJob : Option Transfer
  /-- The interrupt-context host's composite operation under way, if any (R12, log 4). -/
  irqJob : Option Transfer
  /-- The turns the outside world has still to take, the next one first (log 3). -/
  inbox : List Turn
  /-- How many times unspecified reset values have been drawn (log 9). -/
  draws : Nat
deriving DecidableEq, Repr

/-- Why a step faults. Each is an access the spec says cannot happen; no state that satisfies `Inv` faults, so no run
from reset does (log 14). Safe: the model stops where the spec has no behaviour. -/
inductive Fault where
  /-- Raised by the primitives `NvRead` and `NvWrite` at an address not below `NV_SIZE` (R62: "Both need
  `addr < NV_SIZE`; the rules that use them guarantee it"). Safe. -/
  | storeAddress
  /-- Raised by `ADC_READ` and `EV_ADC_DONE` where the channel has no buffer (R24). Safe. -/
  | noSuchChannel
  /-- Raised by `EVT_CB_DONE` where the walk stands past the end of the list (R213). Safe. -/
  | walkPosition
  /-- Raised by `SER_PUSH_TX` where the idle transmitter's queue pops empty (R162: "cannot be empty here"). Safe. -/
  | emptyTransmit
deriving DecidableEq, Repr

/-- Why the model has no step. Each but the first and the last is a `refuse` of the spec. Safe: a run that meets one
is outside every claim. -/
inductive Refusal where
  /-- An instruction of exec that has no meaning yet. Safe. -/
  | notModelled (mnemonic : String)
  /-- Raised by `ADC_START` while a conversion is in flight (R120, U2). Safe. -/
  | alreadyScanning
  /-- Raised by `SER_PUSH_TX` and `SER_SEND_STR` before `SER_CONFIG` (R162, R164, U4). Safe. -/
  | linkNotConfigured
  /-- Raised by `EVT_REGISTER`, `EVT_UNREGISTER` and `EVT_REFRESH` while a walk is under way (R214, U6). Safe. -/
  | walkUnderWay
  /-- Raised by `EVT_CB_DONE` when no callback is outstanding (R213, U7). Safe. -/
  | noCallback
  /-- Raised by the five scheduler operations from interrupt context (R245 (a), U9). Safe. -/
  | schedulerFromInterrupt
  /-- Raised by `SER_PUSH_TX`, `SER_SEND_STR` and `SER_POP_TX` from interrupt context during a foreground
  `SER_SEND_STR`, and by `NV_WRITE` from interrupt context during a foreground `NV_READ` (R245 (b), U9). Safe. -/
  | unitOwnedByForeground
  /-- Raised by a turn in which host code stores at an address host memory does not have (R61, log 15). Safe. -/
  | noSuchHostAddress
deriving DecidableEq, Repr

/-- The values that reset leaves unspecified (R51, R260, U8). -/
structure Unspecified where
  slots : List (Vector Word 8)
  adcOn : Bool
  nvAddr : Word
  nvRem : Word
  nvSrc : Word
  txBuf : Vector Byte 128
  rxBuf : Vector Byte 128
deriving DecidableEq, Repr

/-- The state after reset (R37, R51, R260) of a block with parameters `p`, unspecified values `u`, store `store`, host
memory `mem`, turns still to come `inbox` and `draws` draws made. -/
def State.resetWith (p : Config) (u : Unspecified) (store mem : Memory) (inbox : List Turn) (draws : Nat) : State where
  cfg := p
  tick := { ms := 0, sub := 0, sec := 0 }
  adc := { channels := u.slots.map (fun v => { slots := v, idx := 0 }), ch := 0, on := u.adcOn, inflight := false }
  nv := { busy := false, ie := false, addr := u.nvAddr, rem := u.nvRem, src := u.nvSrc, first := 0, store := store }
  ser := { tx := { buf := u.txBuf, inp := 0, out := 0 }, rx := { buf := u.rxBuf, inp := 0, out := 0 },
           txBusy := false, on := false }
  ext := { ext0 := { handler := 0, ie := false, latched := false },
           ext1 := { handler := 0, ie := false, latched := false } }
  sched := { events := [], nextId := 0, prevMs := 0, walk := .idle }
  mem := mem
  trace := []
  answers := []
  ctx := .foreground
  fgJob := none
  irqJob := none
  inbox := inbox
  draws := draws

/-- Zero for every value reset leaves unspecified. DESIGN CHOICE, unsafe: log 8. -/
def Unspecified.zero (p : Config) : Unspecified where
  slots := List.replicate p.nCh (Vector.replicate 8 0)
  adcOn := false
  nvAddr := 0
  nvRem := 0
  nvSrc := 0
  txBuf := Vector.replicate 128 0
  rxBuf := Vector.replicate 128 0

/-- The machine right after reset, built with REFCFG (log 1, log 8, log 10, log 11). -/
def State.reset : State := State.resetWith Config.ref (Unspecified.zero Config.ref) [] [] [] 0

end Sys2Proof.Machine
end

