-- ==== Sys2Proof/Machine/Flags.lean ====
section
/-! DEFINITION. Status codes (spec/30_encoding.md R88) and the guards of the environment events (R85, R235). The block
has no condition-code register (spec/10_state.md R36). -/

namespace Sys2Proof.Machine

/-- The value column of R88. -/
def Status.code : Status → Byte
  | .ok => 0x00#8
  | .rejectedBusy => 0x01#8
  | .capacityExceeded => 0x02#8
  | .notFound => 0x03#8
  | .empty => 0x04#8
  | .rejectedArg => 0x05#8
  | .notEnabled => 0x06#8
  | .illegal => 0xFF#8

/-- The `res` that goes with a status other than `OK` (R87, R88). -/
def Status.failRes : Status → Word
  | .empty => 0xFFFFFFFF#32
  | .ok | .rejectedBusy | .capacityExceeded | .notFound | .rejectedArg | .notEnabled | .illegal => 0#32

/-- Guard of `EV_ADC_DONE` (R85). -/
def adcDoneEnabled (s : State) : Bool := s.adc.on && s.adc.inflight

/-- Guard of `EV_NV_READY` (R85). -/
def nvReadyEnabled (s : State) : Bool := s.nv.ie

/-- Guard of `EV_SER_RX` (R85). -/
def serRxEnabled (s : State) : Bool := s.ser.on

/-- Guard of `EV_SER_TXC` (R85). -/
def serTxcEnabled (s : State) : Bool := s.ser.on && s.ser.txBusy

/-- R214: a refresh pass is under way (`walk != IDLE`). -/
def walkActive (s : State) : Bool := !(s.sched.walk == .idle)

end Sys2Proof.Machine
end

