-- ==== Sys2Proof/Machine/Operands.lean ====
section
/-! DEFINITION. How operands and parametric-width quantities are read: arithmetic modulo a width (spec/00_scope.md
R10), host addresses (spec/20_memory.md R61), callback descriptors (spec/45_scheduler.md R201), handler references
(spec/44_extsignal.md R186). -/

namespace Sys2Proof.Machine

/-- `n mod 2^w` as a word (R10), for a variable of parametric width `w ≤ 32`. -/
def wrap (w n : Nat) : Word := BitVec.ofNat 32 (n % 2 ^ w)

/-- A host address `n` steps after `a`: it wraps to 0 past `2^W_ADDR - 1` (R61). -/
def hostAddr (p : Config) (a : Word) (n : Nat) : Word := wrap p.wAddr (a.toNat + n)

/-- Elapsed time `(now - last) mod 2^W_MS` (R207). -/
def elapsed (p : Config) (now last : Word) : Nat := (now - last).toNat % 2 ^ p.wMs

/-- The `kind` bit of a callback descriptor, bit 31 (R201). -/
def cbKind (cb : Word) : BitVec 1 := cb.extractLsb' 31 1

/-- The `ref` field of a callback descriptor, bits 30:0 (R201). -/
def cbRef (cb : Word) : Word := (cb.extractLsb' 0 31).setWidth 32

/-- A descriptor is absent exactly when its `ref` field is 0 (R201). -/
def cbAbsent (cb : Word) : Bool := cbRef cb == 0

/-- The site of an external line's `Invoke` (R50, R189). -/
def lineSite : Line → Site
  | .ext0 => .ext0
  | .ext1 => .ext1

end Sys2Proof.Machine
end

