-- ==== Sys2Proof/Machine/Ops.lean ====
section
/-! DEFINITION. The named operations the meanings share: memories (spec/20_memory.md R61, R62), the outputs
(spec/00_scope.md R11, spec/10_state.md R50), the unit primitives of spec/43_serial.md R160, spec/44_extsignal.md R189
and spec/45_scheduler.md R203, R212, the steps of the byte-wise composites, and hardware reset
(spec/70_reset_and_hazards.md R260 to R263). The block takes no exceptions: their place is taken by `raise` (R230) and
by the `Invoke` that hands control to host code (R239). -/

namespace Sys2Proof.Machine

/-- The outcome of an instruction or a step. -/
abbrev Result := Host.Outcome State Fault Refusal

/-! ### Memories -/

/-- The canonical form: addresses strictly rising, no cell equal to what an unlisted address reads as. -/
abbrev Memory.wf (m : Memory) : Prop :=
  m.Pairwise (fun x y => x.1 < y.1) ∧ ∀ cell ∈ m, cell.2 ≠ Memory.unlisted

/-- The byte at an address. -/
def Memory.read : Memory → Nat → Byte
  | [], _ => Memory.unlisted
  | (k, v) :: m, a => if k = a then v else Memory.read m a

/-- Store one byte, keeping the canonical form. -/
def Memory.write : Memory → Nat → Byte → Memory
  | [], a, b => if b = Memory.unlisted then [] else [(a, b)]
  | (k, v) :: m, a, b =>
    if a < k then (if b = Memory.unlisted then (k, v) :: m else (a, b) :: (k, v) :: m)
    else if a = k then (if b = Memory.unlisted then m else (a, b) :: m)
    else (k, v) :: Memory.write m a b

/-- `MemRead(addr, 1)` (R61). -/
def memRead (s : State) (addr : Word) : Byte := s.mem.read addr.toNat

/-- `MemWrite(addr, 1, v)` (R61). -/
def memWrite (s : State) (addr : Word) (v : Byte) : State := { s with mem := s.mem.write addr.toNat v }

/-! ### Outputs -/

/-- `emit E` (R11, R50). -/
def State.emit (s : State) (e : TraceEvent) : State := { s with trace := s.trace ++ [e] }

/-- Deliver a result pair (R87). -/
def State.reply (s : State) (op : Opcode) (st : Status) (res : Word) : State :=
  { s with answers := s.answers ++ [{ op := some op, status := st, res := res }] }

/-- `status <- OK; res <- v`, the end of an operation that succeeds. -/
def done (op : Opcode) (v : Word) (s : State) : Result := .next (s.reply op .ok v)

/-- `raise S` (R11, R230): the answer is `S` with its `res` of R88, and no other state changes. -/
def raise (op : Opcode) (st : Status) (s : State) : Result := .next (s.reply op st st.failRes)

/-! ### The store -/

/-- `NvWrite(addr, v)` (R62): `nv[addr] <- v; emit NvWrite(addr, v)`. -/
def nvWriteByte (s : State) (addr : Nat) (v : Byte) : State :=
  { s with nv := { s.nv with store := s.nv.store.write addr v } }.emit (.nvWrite addr v)

/-! ### Sampler -/

/-- The truncated mean of the eight slots (R121): the sum is exact. -/
def Channel.mean (c : Channel) : Word := BitVec.ofNat 32 ((c.slots.toList.map BitVec.toNat).sum / 8)

/-- Store a reading at the channel's index and advance the index modulo 8 (R123). -/
def Channel.store (c : Channel) (v : Word) : Channel :=
  { slots := c.slots.set c.idx.toNat v c.idx.isLt, idx := c.idx + 1 }

/-! ### Serial queues -/

/-- `q_push` (R160). -/
def Queue.push (q : Queue) (b : Byte) : Queue := { q with buf := q.buf.set q.inp.toNat b q.inp.isLt, inp := q.inp + 1 }

/-- `q_pop` (R160); none is "empty". -/
def Queue.pop (q : Queue) : Option (Byte × Queue) :=
  if q.inp = q.out then none else some (q.buf[q.out.toNat]'q.out.isLt, { q with out := q.out + 1 })

/-- The number of bytes a queue is seen to hold, `(in - out) mod 128` (spec/10_state.md R30). -/
def Queue.fill (q : Queue) : Nat := (q.inp - q.out).toNat

/-- The body of `SER_PUSH_TX` (R162) without its answer: queue the byte; if the transmitter is idle, mark it busy, pop
the first queued byte and send it. -/
def pushTx (b : Byte) (s : State) : Result :=
  if s.ser.on = false then .refused .linkNotConfigured
  else
    let q := s.ser.tx.push b
    if s.ser.txBusy then .next { s with ser := { s.ser with tx := q } }
    else
      match q.pop with
      | none => .fault .emptyTransmit
      | some (first, q') => .next ({ s with ser := { s.ser with tx := q', txBusy := true } }.emit (.txByte first))

/-! ### External lines -/

/-- The slot of a line. -/
def State.line (s : State) : Line → Binding
  | .ext0 => s.ext.ext0
  | .ext1 => s.ext.ext1

/-- Write the slot of a line. -/
def State.setLine (s : State) (l : Line) (b : Binding) : State :=
  match l with
  | .ext0 => { s with ext := { s.ext with ext0 := b } }
  | .ext1 => { s with ext := { s.ext with ext1 := b } }

/-- Hand control to the host code a handler reference names (R189, R239). -/
def State.invokeLine (s : State) (l : Line) (h : Word) : State := s.emit (.invoke (lineSite l) 0 h 0)

/-- `dispatch(l)` (R189): the no-op handler emits nothing. -/
def dispatch (l : Line) (s : State) : State :=
  let h := (s.line l).handler
  if h ≠ 0 then s.invokeLine l h else s

/-! ### Scheduler -/

/-- Some record of the list has this identifier. -/
def idLive (events : List Event) (id : Word) : Bool := events.any (fun e => e.id == id)

/-- The scan of `alloc_id` (R203): from `cand` on, the first identifier not live. `fuel` bounds the scan. -/
def scanId (p : Config) (events : List Event) : Nat → Word → Word
  | 0, cand => cand
  | fuel + 1, cand => if idLive events cand then scanId p events fuel (wrap p.wId (cand.toNat + 1)) else cand

/-- `alloc_id()` (R203): the identifier allocated. One candidate more than there are live events is enough. -/
def allocId (p : Config) (events : List Event) (nextId : Word) : Word := scanId p events (events.length + 1) nextId

/-- The due test of R207. -/
def Event.due (p : Config) (now : Word) (e : Event) : Bool := decide (e.interval.toNat ≤ elapsed p now e.last)

/-- The first due record at or after a position, with its position: `events` is the list from position `pos` on. -/
def firstDue (p : Config) (now : Word) : List Event → Nat → Option (Nat × Event)
  | [], _ => none
  | e :: rest, pos => if e.due p now then some (pos, e) else firstDue p now rest (pos + 1)

/-- Move the walk. -/
def State.setWalk (s : State) (w : Walk) : State := { s with sched := { s.sched with walk := w } }

/-- Hand control to an event's callback (R212). -/
def State.invokeCallback (s : State) (e : Event) : State := s.emit (.invoke .sched (cbKind e.cb) (cbRef e.cb) e.id)

/-- `advance()` (R212) with `walk = WALK(now, pos)`: invoke the first due record at or after `pos` and wait for its
callback, or end the walk and answer the pending `EVT_REFRESH`. -/
def advance (now : Word) (pos : Nat) (s : State) : State :=
  match firstDue s.cfg now (s.sched.events.drop pos) pos with
  | some (p, e) => (s.invokeCallback e).setWalk (.waitCb now p)
  | none => (s.setWalk .idle).reply .evtRefresh .ok 0

/-- Set a record's `last` (R213). -/
def stampLast (now : Word) (e : Event) : Event := { e with last := now }

/-! ### Composite operations (R12) -/

/-- The composite operation of a host agent under way, if any. -/
def State.job (s : State) : Context → Option Transfer
  | .foreground => s.fgJob
  | .interrupt => s.irqJob

/-- Write a host agent's slot. -/
def State.setJob (s : State) (ctx : Context) (j : Option Transfer) : State :=
  match ctx with
  | .foreground => { s with fgJob := j }
  | .interrupt => { s with irqJob := j }

/-- One byte step of `NV_READ` (R143), the `i`-th, of the agent `ctx`; the answer follows the last. -/
def nvReadStep (ctx : Context) (address destination size : Word) (i : Nat) (s : State) : Result :=
  let a := address.toNat + i
  if s.cfg.nvSize ≤ a then .fault .storeAddress
  else
    let t := memWrite (s.emit (.nvRead a)) (hostAddr s.cfg destination i) (s.nv.store.read a)
    if i + 1 < size.toNat then .next (t.setJob ctx (some (.nvRead address destination size (i + 1))))
    else done .nvRead 0 (t.setJob ctx none)

/-- One iteration of `SER_SEND_STR` (R164) of the agent `ctx`, with pointer `p`. -/
def sendStrStep (ctx : Context) (p : Word) (s : State) : Result :=
  let c := memRead s p
  if c = 0 then done .serSendStr 0 (s.setJob ctx none)
  else
    match pushTx c s with
    | .next t => .next (t.setJob ctx (some (.sendStr (hostAddr s.cfg p 1))))
    | .fault r => .fault r
    | .refused r => .refused r

/-- The next step of an agent's composite operation. -/
def transferStep (ctx : Context) (j : Transfer) (s : State) : Result :=
  match j with
  | .nvRead address destination size i => nvReadStep ctx address destination size i s
  | .sendStr p => sendStrStep ctx p s

/-- The composite under way takes its next step. An invoked handler preempts the foreground and runs to completion
(R70, R240), so the interrupt-context host's goes first. With none under way nothing happens. -/
def goOn (s : State) : Result :=
  match s.irqJob, s.fgJob with
  | some j, _ => transferStep .interrupt j s
  | none, some j => transferStep .foreground j s
  | none, none => .next s

/-- A host agent issues its operations one at a time (R9): a host frame waits while a composite operation of its own
agent is under way, or of a handler that preempts it (log 4). A stimulus frame never waits, nor does
an illegal frame with opcode bit 7 set, which counts as one (DESIGN CHOICE, log 20). -/
def waits (s : State) (ctx : Context) (F : Frame) : Bool :=
  if isStimulus F then false
  else s.irqJob.isSome || (ctx == .foreground && s.fgJob.isSome)

/-! ### Contexts (R245) -/

/-- R245 (a): a scheduler operation issued from interrupt context. -/
def schedulerMisused (s : State) : Bool := s.ctx == .interrupt

/-- R245 (b), serial: an operation issued from interrupt context during a foreground `SER_SEND_STR`. -/
def serialOwned (s : State) : Bool :=
  s.ctx == .interrupt && (match s.fgJob with | some (.sendStr _) => true | _ => false)

/-- R245 (b), writer: an operation issued from interrupt context during a foreground `NV_READ`. -/
def writerOwned (s : State) : Bool :=
  s.ctx == .interrupt && (match s.fgJob with | some (.nvRead _ _ _ _) => true | _ => false)

/-! ### Hardware reset -/

/-- The values a hardware reset leaves unspecified, drawn within the legal values of R37's table from the free values
of Config (R51, R260, log 9). -/
def Unspecified.draw (p : Config) (n : Nat) : Unspecified where
  slots := (List.range p.nCh).map (fun c => Vector.ofFn (fun k => wrap p.wSample (Config.freeSample n c k.val).toNat))
  adcOn := Config.freeAdcOn n
  nvAddr := BitVec.ofNat 32 ((Config.freeNvAddr n).toNat % (p.nvSize + 1))
  nvRem := BitVec.ofNat 32 ((Config.freeNvRem n).toNat % (p.nvSize + 1))
  nvSrc := wrap p.wAddr (Config.freeNvSrc n).toNat
  txBuf := Vector.ofFn (fun k => Config.freeTxByte n k.val)
  rxBuf := Vector.ofFn (fun k => Config.freeRxByte n k.val)

/-- The store across a reset (R262, R263): it survives, but for the byte whose write was under way. -/
def storeAfterReset (nv : NvWriter) (n : Nat) : Memory :=
  if nv.busy ∧ nv.first < nv.addr then nv.store.write (nv.addr.toNat - 1) (Config.freeNvByte n) else nv.store

/-- Hardware reset (R260 to R263): the store survives; host memory is not the block's (log 12). -/
def hardReset (s : State) : State :=
  State.resetWith s.cfg (Unspecified.draw s.cfg s.draws) (storeAfterReset s.nv s.draws) s.mem s.inbox (s.draws + 1)

end Sys2Proof.Machine
end

