-- ==== Sys2Proof/Machine/AdcSampler.lean ====
section
/-! DEFINITION. Averaging Sampler: spec/41_sampler.md R120 to R123. -/

namespace Sys2Proof.Machine

/-- `ADC_START`, R120. -/
def execAdcStart (s : State) : Result :=
  if s.adc.inflight then .refused .alreadyScanning
  else if s.adc.on then
    done .adcStart 0 ({ s with adc := { s.adc with ch := 0, inflight := true } }.emit (.convert 0))
  else done .adcStart 0 { s with adc := { s.adc with ch := 0 } }

/-- `ADC_READ`, R121. -/
def execAdcRead (channel : Word) (s : State) : Result :=
  match s.adc.channels[channel.toNat]? with
  | none => .fault .noSuchChannel
  | some c => done .adcRead c.mean s

/-- `ADC_POWER`, R122. -/
def execAdcPower (on : Bool) (s : State) : Result :=
  if on then done .adcPower 0 { s with adc := { s.adc with on := true } }
  else done .adcPower 0 { s with adc := { s.adc with on := false, inflight := false } }

/-- The writes of `EV_ADC_DONE`, R123: the reading goes to channel `adc_ch`, and the selector moves on. -/
def Sampler.deposit (p : Config) (a : Sampler) (c : Channel) (sample : Word) : Sampler :=
  { a with channels := a.channels.set a.ch (c.store sample), ch := (a.ch + 1) % p.nCh }

/-- `EV_ADC_DONE`, R123. -/
def execEvAdcDone (sample : Word) (s : State) : Result :=
  if adcDoneEnabled s then
    match s.adc.channels[s.adc.ch]? with
    | none => .fault .noSuchChannel
    | some c =>
      let a := s.adc.deposit s.cfg c sample
      done .evAdcDone 0 ({ s with adc := a }.emit (.convert a.ch))
  else raise .evAdcDone .notEnabled s

end Sys2Proof.Machine
end

