-- ==== Sys2Proof/Machine/EventScheduler.lean ====
section
/-! DEFINITION. Event Scheduler: spec/45_scheduler.md R202 to R214. Every operation is refused from interrupt context
(spec/60_exceptions.md R245 (a)). -/

namespace Sys2Proof.Machine

/-- `EVT_REGISTER`, R202. -/
def execEvtRegister (interval callback : Word) (s : State) : Result :=
  if schedulerMisused s then .refused .schedulerFromInterrupt
  else if walkActive s then .refused .walkUnderWay
  else if s.sched.events.length = evtMax then raise .evtRegister .capacityExceeded s
  else if interval = 0 then raise .evtRegister .rejectedArg s
  else if cbAbsent callback then raise .evtRegister .rejectedArg s
  else
    let id := allocId s.cfg s.sched.events s.sched.nextId
    let e : Event := { id := id, interval := interval, last := s.tick.ms, cb := callback }
    done .evtRegister id
      { s with sched := { s.sched with events := s.sched.events ++ [e], nextId := wrap s.cfg.wId (id.toNat + 1) } }

/-- The record update of `EVT_MODIFY`, R204. -/
def Event.modify (interval callback : Word) (e : Event) : Event :=
  { e with interval := interval, cb := if cbAbsent callback then e.cb else callback }

/-- `EVT_MODIFY`, R204: the first record with the identifier. -/
def execEvtModify (id interval callback : Word) (s : State) : Result :=
  if schedulerMisused s then .refused .schedulerFromInterrupt
  else
    match s.sched.events.findIdx? (fun e => e.id == id) with
    | none => raise .evtModify .notFound s
    | some k =>
      if interval = 0 then raise .evtModify .notFound s
      else
        done .evtModify 0
          { s with sched := { s.sched with events := s.sched.events.modify k (Event.modify interval callback) } }

/-- `EVT_UNREGISTER`, R205: the first record with the identifier. -/
def execEvtUnregister (id : Word) (s : State) : Result :=
  if schedulerMisused s then .refused .schedulerFromInterrupt
  else if walkActive s then .refused .walkUnderWay
  else if idLive s.sched.events id then
    done .evtUnregister 0 { s with sched := { s.sched with events := s.sched.events.eraseP (fun e => e.id == id) } }
  else raise .evtUnregister .notFound s

/-- `EVT_REFRESH`, R206: the sample is taken once (R210); the pass runs up to the first due event's callback. -/
def execEvtRefresh (s : State) : Result :=
  if schedulerMisused s then .refused .schedulerFromInterrupt
  else if walkActive s then .refused .walkUnderWay
  else
    let now := s.tick.ms
    if now = s.sched.prevMs then done .evtRefresh 0 s
    else .next (advance now 0 { s with sched := { s.sched with prevMs := now, walk := .walking now 0 } })

/-- `EVT_CB_DONE`, R213: the return of the callback; the record's timestamp is written, and the pass goes on. -/
def execEvtCbDone (s : State) : Result :=
  if schedulerMisused s then .refused .schedulerFromInterrupt
  else
    match s.sched.walk with
    | .waitCb now pos =>
      if pos < s.sched.events.length then
        let t := { s with sched := { s.sched with events := s.sched.events.modify pos (stampLast now),
                                                  walk := .walking now (pos + 1) } }
        done .evtCbDone 0 (advance now (pos + 1) t)
      else .fault .walkPosition
    | .idle => .refused .noCallback
    | .walking _ _ => .refused .noCallback

end Sys2Proof.Machine
end

