-- ==== Sys2Proof/Machine/ExtSignal.lean ====
section
/-! DEFINITION. External Signal Dispatch: spec/44_extsignal.md R187 to R191. -/

namespace Sys2Proof.Machine

/-- `EXT_BIND`, R187; with `EXT_LATCH`, a remembered edge invokes the new handler at once (R191). -/
def execExtBind (line : Line) (handler : Word) (s : State) : Result :=
  let b := s.line line
  if handler ≠ 0 then
    if s.cfg.extLatch ∧ b.latched then
      done .extBind 0 ((s.setLine line { handler := handler, ie := true, latched := false }).invokeLine line handler)
    else done .extBind 0 (s.setLine line { b with handler := handler, ie := true })
  else done .extBind 0 (s.setLine line { b with handler := 0, ie := false })

/-- `EV_EXT`, R188; with `EXT_LATCH`, an edge on a disabled line is remembered (R191). -/
def execEvExt (line : Line) (s : State) : Result :=
  let b := s.line line
  if b.ie then done .evExt 0 (dispatch line s)
  else if s.cfg.extLatch then raise .evExt .notEnabled (s.setLine line { b with latched := true })
  else raise .evExt .notEnabled s

end Sys2Proof.Machine
end

