-- ==== Sys2Proof/Machine/NvStore.lean ====
section
/-! DEFINITION. Async Non-Volatile Writer: spec/42_nvwriter.md R140 to R143. -/

namespace Sys2Proof.Machine

/-- `NV_BUSY`, R140. -/
def execNvBusy (s : State) : Result := done .nvBusy (if s.nv.busy then 1 else 0) s

/-- `NV_WRITE`, R141; refused from interrupt context during a foreground `NV_READ` (R245). -/
def execNvWrite (address source size : Word) (s : State) : Result :=
  if writerOwned s then .refused .unitOwnedByForeground
  else if s.nv.busy then raise .nvWrite .rejectedBusy s
  else if s.cfg.nvSize < address.toNat + size.toNat then raise .nvWrite .capacityExceeded s
  else if size = 0 then done .nvWrite address s
  else
    done .nvWrite (address + size)
      { s with nv := { s.nv with addr := address, rem := size, src := source, first := address,
                                  busy := true, ie := true } }

/-- `EV_NV_READY`, R142. -/
def execEvNvReady (s : State) : Result :=
  if nvReadyEnabled s then
    if s.nv.rem = 0 then done .evNvReady 0 { s with nv := { s.nv with ie := false, busy := false } }
    else if s.cfg.nvSize ≤ s.nv.addr.toNat then .fault .storeAddress
    else
      let t := nvWriteByte s s.nv.addr.toNat (memRead s s.nv.src)
      done .evNvReady 0
        { t with nv := { t.nv with addr := s.nv.addr + 1, src := hostAddr s.cfg s.nv.src 1, rem := s.nv.rem - 1 } }
  else raise .evNvReady .notEnabled s

/-- `NV_READ`, R143: the two tests and the first byte; the further bytes are steps of their own (`nvReadStep`). -/
def execNvRead (address destination size : Word) (s : State) : Result :=
  if s.nv.busy then raise .nvRead .rejectedBusy s
  else if s.cfg.nvSize < address.toNat + size.toNat then raise .nvRead .capacityExceeded s
  else if size = 0 then done .nvRead 0 s
  else nvReadStep s.ctx address destination size 0 s

end Sys2Proof.Machine
end

