-- ==== Sys2Proof/Machine/SerialLink.lean ====
section
/-! DEFINITION. Duplex Serial Driver: spec/43_serial.md R161 to R167. -/

namespace Sys2Proof.Machine

/-- `SER_CONFIG`, R161. -/
def execSerConfig (s : State) : Result := done .serConfig 0 { s with ser := { s.ser with on := true } }

/-- `SER_PUSH_TX`, R162; refused from interrupt context during a foreground `SER_SEND_STR` (R245). -/
def execSerPushTx (byte : Byte) (s : State) : Result :=
  if serialOwned s then .refused .unitOwnedByForeground
  else
    match pushTx byte s with
    | .next t => done .serPushTx 0 t
    | .fault r => .fault r
    | .refused r => .refused r

/-- `SER_POP_TX`, R163; refused from interrupt context during a foreground `SER_SEND_STR` (R245). -/
def execSerPopTx (s : State) : Result :=
  if serialOwned s then .refused .unitOwnedByForeground
  else
    match s.ser.tx.pop with
    | none => raise .serPopTx .empty s
    | some (b, q) => done .serPopTx (b.setWidth 32) { s with ser := { s.ser with tx := q } }

/-- `SER_SEND_STR`, R164: its test and its first iteration; the further iterations are steps of their own
(`sendStrStep`). It is an operation with a frame of its own, not a pseudo-operation, and pushes each byte through
`pushTx`, as `SER_PUSH_TX` does (R93). Refused from interrupt context during a foreground `SER_SEND_STR` (R245). -/
def execSerSendStr (text : Word) (s : State) : Result :=
  if serialOwned s then .refused .unitOwnedByForeground
  else if s.ser.on = false then .refused .linkNotConfigured
  else sendStrStep s.ctx text s

/-- `SER_POP_RX`, R165. -/
def execSerPopRx (s : State) : Result :=
  match s.ser.rx.pop with
  | none => raise .serPopRx .empty s
  | some (b, q) => done .serPopRx (b.setWidth 32) { s with ser := { s.ser with rx := q } }

/-- `EV_SER_RX`, R166. -/
def execEvSerRx (byte : Byte) (s : State) : Result :=
  if serRxEnabled s then done .evSerRx 0 { s with ser := { s.ser with rx := s.ser.rx.push byte } }
  else raise .evSerRx .notEnabled s

/-- `EV_SER_TXC`, R167. -/
def execEvSerTxc (s : State) : Result :=
  if serTxcEnabled s then
    match s.ser.tx.pop with
    | none => done .evSerTxc 0 { s with ser := { s.ser with txBusy := false } }
    | some (b, q) => done .evSerTxc 0 ({ s with ser := { s.ser with tx := q } }.emit (.txByte b))
  else raise .evSerTxc .notEnabled s

end Sys2Proof.Machine
end

