-- ==== Sys2Proof/Machine/Tick.lean ====
section
/-! DEFINITION. Tick Source: spec/40_tick.md R110 to R112. -/

namespace Sys2Proof.Machine

/-- `NOW_MS`, R110. -/
def execNowMs (s : State) : Result := done .nowMs s.tick.ms s

/-- `NOW_S`, R111. -/
def execNowS (s : State) : Result := done .nowS s.tick.sec s

/-- The three writes of `EV_TICK`, R112. -/
def TickSource.advance (p : Config) (t : TickSource) : TickSource :=
  let ms := wrap p.wMs (t.ms.toNat + 1)
  let sub := t.sub + 1
  if sub.toNat = msPerS then { ms := ms, sub := 0, sec := wrap p.wS (t.sec.toNat + 1) }
  else { t with ms := ms, sub := sub }

/-- `EV_TICK`, R112; always enabled. -/
def execEvTick (s : State) : Result := done .evTick 0 { s with tick := s.tick.advance s.cfg }

end Sys2Proof.Machine
end

