-- ==== Sys2Proof/Machine/Dispatch.lean ====
section
/-! DEFINITION. The meaning of each instruction: one arm per constructor. -/

namespace Sys2Proof.Machine

def exec (i : Instr) (s : State) : Host.Outcome State Fault Refusal :=
  match i with
  | .nowMs => Sys2Proof.Machine.execNowMs s
  | .nowS => Sys2Proof.Machine.execNowS s
  | .adcStart => Sys2Proof.Machine.execAdcStart s
  | .adcRead channel => Sys2Proof.Machine.execAdcRead channel s
  | .adcPower on => Sys2Proof.Machine.execAdcPower on s
  | .nvBusy => Sys2Proof.Machine.execNvBusy s
  | .nvWrite address source size => Sys2Proof.Machine.execNvWrite address source size s
  | .nvRead address destination size => Sys2Proof.Machine.execNvRead address destination size s
  | .serConfig => Sys2Proof.Machine.execSerConfig s
  | .serPushTx byte => Sys2Proof.Machine.execSerPushTx byte s
  | .serPopTx => Sys2Proof.Machine.execSerPopTx s
  | .serSendStr text => Sys2Proof.Machine.execSerSendStr text s
  | .serPopRx => Sys2Proof.Machine.execSerPopRx s
  | .extBind line handler => Sys2Proof.Machine.execExtBind line handler s
  | .evtRegister interval callback => Sys2Proof.Machine.execEvtRegister interval callback s
  | .evtModify id interval callback => Sys2Proof.Machine.execEvtModify id interval callback s
  | .evtUnregister id => Sys2Proof.Machine.execEvtUnregister id s
  | .evtRefresh => Sys2Proof.Machine.execEvtRefresh s
  | .evtCbDone => Sys2Proof.Machine.execEvtCbDone s
  | .evTick => Sys2Proof.Machine.execEvTick s
  | .evAdcDone sample => Sys2Proof.Machine.execEvAdcDone sample s
  | .evNvReady => Sys2Proof.Machine.execEvNvReady s
  | .evSerRx byte => Sys2Proof.Machine.execEvSerRx byte s
  | .evSerTxc => Sys2Proof.Machine.execEvSerTxc s
  | .evExt line => Sys2Proof.Machine.execEvExt line s

end Sys2Proof.Machine
end

