-- ==== Sys2Proof/Machine/Turns.lean ====
section
/-! DEFINITION. What one turn of the outside world does (spec/00_scope.md R9, R12; spec/30_encoding.md R86, R90;
spec/20_memory.md R70). The turn taken has already left the inbox. -/

namespace Sys2Proof.Machine

/-- An illegal frame is answered `ILLEGAL` and changes no state (R86, R90). -/
def answerIllegal (s : State) : Result :=
  .next { s with answers := s.answers ++ [{ op := none, status := .illegal, res := Status.illegal.failRes }] }

/-- The state a frame's instruction is executed in: for a host operation, the agent that issues it is noted (R245). -/
def State.issuedBy (s : State) (ctx : Context) (F : Frame) : State :=
  if isStimulus F then s else { s with ctx := ctx }

/-- A frame is decoded and executed, or answered `ILLEGAL`. -/
def takeFrame (ctx : Context) (F : Frame) (s : State) : Result :=
  match decode s.cfg F with
  | .error _ => answerIllegal s
  | .ok i => exec i (s.issuedBy ctx F)

/-- Host code stores a byte into its own memory (R61). -/
def hostStore (addr : Nat) (b : Byte) (s : State) : Result :=
  if addr < 2 ^ s.cfg.wAddr then .next { s with mem := s.mem.write addr b } else .refused .noSuchHostAddress

/-- The turn `t`, the rest of the inbox being `rest`. A host frame that must wait stays where it is while the
composite operation in its way takes a step. -/
def takeTurn (t : Turn) (rest : List Turn) (s : State) : Result :=
  match t with
  | .frame ctx F => if waits s ctx F then goOn s else takeFrame ctx F { s with inbox := rest }
  | .goOn => goOn { s with inbox := rest }
  | .store addr b => hostStore addr b { s with inbox := rest }
  | .reset => .next (hardReset { s with inbox := rest })

/-- With no turn left a composite operation under way goes on; otherwise nothing happens (log 6). -/
def takeStep (s : State) : Result :=
  match s.inbox with
  | [] => goOn s
  | t :: rest => takeTurn t rest s

/-- The state in which `F` is the next frame the foreground host issues (or the next stimulus) and nothing holds it
up: a composite operation that a host frame would wait for is dropped. -/
def State.offer (s : State) (F : Frame) : State :=
  if isStimulus F then { s with inbox := .frame .foreground F :: s.inbox }
  else { s with inbox := .frame .foreground F :: s.inbox, fgJob := none, irqJob := none }

end Sys2Proof.Machine
end

