-- ==== Sys2Proof/Machine/Step.lean ====
section
/-! DEFINITION. One step of the machine, and how a frame is placed where the next step takes it. -/

namespace Sys2Proof.Machine

/-- One step of one agent (spec/00_scope.md R12). -/
def step (s : State) : Host.Outcome State Fault Refusal := takeStep s

/-- `s` with the frame whose bits are `w`, numbered as spec/opcode_table.json numbers them, placed so that the very
next step takes it (log 16). -/
def State.withFetchWord (s : State) (nbits w : Nat) : State := s.offer (BitVec.ofNat 128 (w % 2 ^ nbits))

end Sys2Proof.Machine
end

