-- ==== Sys2Proof/Machine/Pseudo.lean ====
section
/-! DEFINITION. Instructions executed one after the other, and the pseudo-operations of spec/30_encoding.md R93 by their
expansions. They have no frames of their own, so they are no constructors of Instr. -/

namespace Sys2Proof.Machine

/-- The instructions of a list executed one after the other, stopping at the first that does not answer a next
state. -/
def execAll : List Instr → State → Result
  | [], s => .next s
  | i :: is, s =>
    match exec i s with
    | .next t => execAll is t
    | .fault r => .fault r
    | .refused r => .refused r

/-- The last answer given is `NOT_ENABLED`. -/
def lastNotEnabled (s : State) : Bool :=
  match s.answers.getLast? with
  | some a => a.status == .notEnabled
  | none => false

/-- An event repeated until it answers `NOT_ENABLED`, at most `fuel` times. -/
def execUntilNotEnabled (i : Instr) : (fuel : Nat) → State → Result
  | 0, s => .next s
  | fuel + 1, s =>
    match exec i s with
    | .next t => if lastNotEnabled t then .next t else execUntilNotEnabled i fuel t
    | .fault r => .fault r
    | .refused r => .refused r

/-- The pseudo-operations (R93). -/
inductive Pseudo where
  /-- `TICKS n`. -/
  | ticks (n : Nat)
  /-- `RX b1, b2, ...`. -/
  | rx (bytes : List Byte)
  /-- `DRAIN_TX`. -/
  | drainTx
  /-- `DRAIN_NV`. -/
  | drainNv
  /-- `EXT_UNBIND l`. -/
  | extUnbind (line : Line)
  /-- `EVT_SET_INTERVAL id, n`. -/
  | evtSetInterval (id interval : Word)
deriving DecidableEq, Repr

/-- What a pseudo-operation does: its expansion (R93). A drain takes one event for each byte, one that ends the work and
one that answers `NOT_ENABLED`. -/
def runPseudo (x : Pseudo) (s : State) : Result :=
  match x with
  | .ticks n => execAll (List.replicate n .evTick) s
  | .rx bytes => execAll (bytes.map .evSerRx) s
  | .drainTx => execUntilNotEnabled .evSerTxc (s.ser.tx.fill + 2) s
  | .drainNv => execUntilNotEnabled .evNvReady (s.nv.rem.toNat + 2) s
  | .extUnbind line => exec (.extBind line 0) s
  | .evtSetInterval id interval => exec (.evtModify id interval 0) s

end Sys2Proof.Machine
end

