-- ==== Sys2Proof/Safety.lean ====
section
/-! DEFINITION. The invariant of the block, unit by unit (spec/10_state.md R22 to R35, spec/43_serial.md R171), what a
safe state is, and the terms in which claims speak of several steps. -/

namespace Sys2Proof

/-- An environment event (R85): opcode bit 7 is 1. -/
def Instr.isEvent (i : Instr) : Bool := i.opcode.code.getLsbD 7

/-- The unit an instruction belongs to (R4): the high nibble of its opcode for a host operation (D3), the unit of its
handler for an event (R235). -/
inductive BlockUnit where
  | tick | sampler | writer | serial | lines | scheduler
deriving DecidableEq, Repr

/-- The unit of an opcode. -/
def Opcode.unit : Opcode → BlockUnit
  | .nowMs | .nowS | .evTick => .tick
  | .adcStart | .adcRead | .adcPower | .evAdcDone => .sampler
  | .nvBusy | .nvWrite | .nvRead | .evNvReady => .writer
  | .serConfig | .serPushTx | .serPopTx | .serSendStr | .serPopRx | .evSerRx | .evSerTxc => .serial
  | .extBind | .evExt => .lines
  | .evtRegister | .evtModify | .evtUnregister | .evtRefresh | .evtCbDone => .scheduler

end Sys2Proof

namespace Sys2Proof.Machine

/-- The legal values of `ms`, `sub`, `sec` (R37). -/
abbrev TickSource.Inv (p : Config) (t : TickSource) : Prop :=
  t.ms.toNat < 2 ^ p.wMs ∧ t.sub.toNat < msPerS ∧ t.sec.toNat < 2 ^ p.wS

/-- One buffer per channel, samples of `W_SAMPLE` bits, the selector below `N_CH` (R24, R37), and R26. -/
abbrev Sampler.Inv (p : Config) (a : Sampler) : Prop :=
  a.channels.length = p.nCh ∧ (∀ c ∈ a.channels, ∀ v ∈ c.slots.toList, v.toNat < 2 ^ p.wSample) ∧
  a.ch < p.nCh ∧ (a.inflight = true → a.on = true)

/-- R28, the legal values of R37, and the store's canonical form within `0 .. NV_SIZE - 1` (R62). -/
abbrev NvWriter.Inv (p : Config) (w : NvWriter) : Prop :=
  w.ie = w.busy ∧ w.addr.toNat ≤ p.nvSize ∧ w.rem.toNat ≤ p.nvSize ∧ w.src.toNat < 2 ^ p.wAddr ∧
  (w.busy = true → w.addr.toNat + w.rem.toNat ≤ p.nvSize ∧ w.first.toNat ≤ w.addr.toNat) ∧
  w.store.wf ∧ ∀ cell ∈ w.store, cell.1 < p.nvSize

/-- R171. -/
abbrev Serial.Inv (x : Serial) : Prop :=
  (x.txBusy = false → x.tx.inp = x.tx.out) ∧ (x.txBusy = true → x.on = true)

/-- R32, and R191: an edge is remembered only under `EXT_LATCH` and only on a disabled line. -/
abbrev Binding.Inv (p : Config) (b : Binding) : Prop :=
  (b.ie = true ↔ b.handler ≠ 0) ∧ (b.latched = true → p.extLatch = true ∧ b.ie = false)

/-- A legal record (R33, R35). -/
abbrev Event.Inv (p : Config) (e : Event) : Prop :=
  e.id.toNat < 2 ^ p.wId ∧ 1 ≤ e.interval.toNat ∧ e.interval.toNat < 2 ^ p.wMs ∧ e.last.toNat < 2 ^ p.wMs ∧
  cbAbsent e.cb = false

/-- Where a walk may stand between two steps: `WALK` never outlasts a step (R214), and a suspended walk stands at the
record it invoked (R213). -/
def Walk.settled (p : Config) (n : Nat) : Walk → Bool
  | .idle => true
  | .walking _ _ => false
  | .waitCb now pos => decide (now.toNat < 2 ^ p.wMs) && decide (pos < n)

/-- R33 to R35. -/
abbrev Scheduler.Inv (p : Config) (x : Scheduler) : Prop :=
  x.events.length ≤ evtMax ∧ (x.events.map Event.id).Nodup ∧ (∀ e ∈ x.events, e.Inv p) ∧
  x.nextId.toNat < 2 ^ p.wId ∧ x.prevMs.toNat < 2 ^ p.wMs ∧ x.walk.settled p x.events.length = true

/-- A composite operation between two of its steps: an `NV_READ` has a byte left, stays within the store, and finds the
writer idle (R143); a `SER_SEND_STR` has a configured link (R164). -/
def Transfer.legal (s : State) : Transfer → Bool
  | .nvRead a b c i =>
    decide (a.toNat + c.toNat ≤ s.cfg.nvSize) && decide (i < c.toNat) && decide (b.toNat < 2 ^ s.cfg.wAddr) &&
      !s.nv.busy
  | .sendStr p => decide (p.toNat < 2 ^ s.cfg.wAddr) && s.ser.on

/-- Host memory: canonical, within its address space (R61). -/
abbrev hostMemoryInv (s : State) : Prop := s.mem.wf ∧ ∀ cell ∈ s.mem, cell.1 < 2 ^ s.cfg.wAddr

/-- The invariant of the machine. -/
abbrev Inv (s : State) : Prop :=
  s.cfg.valid ∧ s.tick.Inv s.cfg ∧ s.adc.Inv s.cfg ∧ s.nv.Inv s.cfg ∧ s.ser.Inv ∧
  s.ext.ext0.Inv s.cfg ∧ s.ext.ext1.Inv s.cfg ∧ s.sched.Inv s.cfg ∧ hostMemoryInv s ∧
  (∀ j ∈ s.fgJob, j.legal s = true) ∧ (∀ j ∈ s.irqJob, j.legal s = true)

/-- A safe state: its step does not fault (R230). -/
def Safe (s : State) : Prop := ∀ r : Fault, step s ≠ .fault r

/-- `n` steps, stopping at the first that does not answer a next state. -/
def steps : Nat → State → Result
  | 0, s => .next s
  | n + 1, s =>
    match step s with
    | .next t => steps n t
    | .fault r => .fault r
    | .refused r => .refused r

/-- An outcome with its next state changed by `f`. -/
def mapNext (f : State → State) : Result → Result
  | .next t => .next (f t)
  | .fault r => .fault r
  | .refused r => .refused r

/-- `q'` is `q` after a push of `b` (R160): the byte is in the slot "in" pointed at, "in" has advanced modulo 128, and
nothing else has changed. -/
def Queue.IsPush (q : Queue) (b : Byte) (q' : Queue) : Prop :=
  (∀ (k : Nat) (hk : k < 128), q'.buf[k] = if k = q.inp.toNat then b else q.buf[k]) ∧
  q'.inp.toNat = (q.inp.toNat + 1) % 128 ∧ q'.out = q.out

/-- `q'` is `q` after a pop that returned `b` (R160): "out" was not "in", it pointed at `b` and has advanced modulo 128,
and nothing else has changed. -/
def Queue.IsPop (q : Queue) (b : Byte) (q' : Queue) : Prop :=
  q.inp ≠ q.out ∧ (∀ hk : q.out.toNat < 128, q.buf[q.out.toNat] = b) ∧
  q'.out.toNat = (q.out.toNat + 1) % 128 ∧ q'.inp = q.inp ∧ q'.buf = q.buf

/-- A state with its outputs set aside: what two runs that differ only in the order of their outputs share. -/
def State.withoutOutputs (s : State) : State := { s with trace := [], answers := [] }

end Sys2Proof.Machine
end

