-- ==== Sys2Proof/Certificates/Slice0/Obligations.lean ====
section
/-! DEFINITION. The statements about the block, one Prop each. "stated" ones formalise the rule their docstring names;
where a clause rests on a choice of the model, the docstring names the log entry. -/

open Sys2Proof Sys2Proof.Machine

/-! ## Encoding -/

/-- R81, R82, R84 to R86, R89: decoding the frame of a well-formed instruction gives it back, under every
configuration and with every operand the encoding admits. -/
def Obligations.DecodeUndoesEncode : Prop :=
  ∀ (p : Config) (i : Instr), i.wf p = true → decode p (encode i) = .ok i

/-- R81, R82, R86, R89: a frame that decodes is the encoding of the instruction it decodes to, and that instruction is
well formed; so each legal frame has one meaning. -/
def Obligations.DecodedFrameIsItsEncoding : Prop :=
  ∀ (p : Config) (F : Frame) (i : Instr), decode p F = .ok i → encode i = F ∧ i.wf p = true

/-- R83: a frame is 16 bytes, byte `k` is `F[8k+7 : 8k]`, byte 0 is the opcode, bytes 4 to 7 are `A`, 8 to 11 `B`, 12 to
15 `C`, least significant byte first; reading the bytes back gives the frame, and decoding bytes is decoding it.
The byte order is the spec's own decision D33. -/
def Obligations.FramesSerialiseLittleEndian : Prop :=
  ∀ F : Frame,
    (frameBytes F).length = 16 ∧
    (∀ k, k < 16 → (frameBytes F)[k]? = some (F.extractLsb' (8 * k) 8)) ∧
    (frameBytes F)[0]? = some (opcodeByte F) ∧
    (∀ k, k < 4 →
      (frameBytes F)[4 + k]? = some ((wordA F).extractLsb' (8 * k) 8) ∧
      (frameBytes F)[8 + k]? = some ((wordB F).extractLsb' (8 * k) 8) ∧
      (frameBytes F)[12 + k]? = some ((wordC F).extractLsb' (8 * k) 8)) ∧
    frameOfBytes (frameBytes F) = F ∧
    ∀ (p : Config) (rest : List Byte) (i : Instr),
      decodeBytes p (frameBytes F ++ rest) = .ok (i, rest) ↔ decode p F = .ok i

/-- R82 and the columns "mask" and "match" of opcode_table.json: a frame fits a row of the table exactly when it decodes
to that row's instruction or is rejected for an operand of that row alone. -/
def Obligations.TableRowsSelectInstructions : Prop :=
  ∀ (p : Config) (F : Frame) (op : Opcode),
    F &&& op.tableMask = op.tableMatch ↔
      (∃ i, decode p F = .ok i ∧ i.opcode = op) ∨
        (decode p F = .error .operandRange ∧ opcodeByte F = op.code)

/-- Frames written out from 95_test_vectors.md V1 to V7, one or more of each unit, and what they stand for. -/
def Obligations.SpecFramesDecodeAsWritten : Prop :=
  decode Config.ref 0x00000003000020000000001000000031#128 = .ok (.nvWrite 0x10 0x2000 3) ∧
  decode Config.ref 0x00000001000100000000000000000031#128 = .error .operandRange ∧
  decode Config.ref 0x000000010000FFFF000003FF00000032#128 = .ok (.nvRead 0x3FF 0xFFFF 1) ∧
  decode Config.ref 0x00000000000000000000000000000080#128 = .ok .evTick ∧
  decode Config.ref 0x00000000000000000000020000000081#128 = .ok (.evAdcDone 512) ∧
  decode Config.ref 0x00000000000000000000040000000081#128 = .error .operandRange ∧
  decode Config.ref 0x00000000000000000000006100000041#128 = .ok (.serPushTx 0x61) ∧
  decode Config.ref 0x00000000000040000000000000000050#128 = .ok (.extBind .ext0 0x4000) ∧
  decode Config.ref 0x00000000800043000000001E00000060#128 = .ok (.evtRegister 30 0x80004300) ∧
  decode Config.ref 0x00004400000000FA0000000000000061#128 = .ok (.evtModify 0 250 0x4400) ∧
  decode Config.ref 0x00000000000000000000000000000110#128 = .error .reservedBits ∧
  decode Config.ref 0x00000000000000000000000000000012#128 = .error .unassignedOpcode ∧
  decode Config.ref 0x00000001000000000000000000000050#128 = .error .unusedOperand

/-- R86, R90: the unassigned opcodes are the ones listed, and a frame that is the encoding of no well-formed instruction
is answered `ILLEGAL` with `res` 0, changes no state and emits nothing.
The answer `ILLEGAL` is the spec's own decision D35. -/
def Obligations.IllegalFrameChangesNothing : Prop :=
  (∀ b : Byte, Opcode.ofCode b = none ↔
    (b.toNat ≤ 0x0F ∨ (0x12 ≤ b.toNat ∧ b.toNat ≤ 0x1F) ∨ (0x23 ≤ b.toNat ∧ b.toNat ≤ 0x2F) ∨
      (0x33 ≤ b.toNat ∧ b.toNat ≤ 0x3F) ∨ (0x45 ≤ b.toNat ∧ b.toNat ≤ 0x4F) ∨ (0x51 ≤ b.toNat ∧ b.toNat ≤ 0x5F) ∨
      (0x65 ≤ b.toNat ∧ b.toNat ≤ 0x7F) ∨ 0x86 ≤ b.toNat)) ∧
  ∀ (s : State) (ctx : Context) (F : Frame) (rest : List Turn),
    s.inbox = .frame ctx F :: rest → waits s ctx F = false → (¬ ∃ i : Instr, i.wf s.cfg = true ∧ encode i = F) →
      step s = .next { s with inbox := rest, answers := s.answers ++ [{ op := none, status := .illegal, res := 0 }] }

/-! ## Steps, reset, the invariant -/

/-- R12, R80, R86: when the next turn is a frame that need not wait and decodes to `i`, the step is `exec i`; the frame
has left the inbox and, for a host operation, its context is noted (log 3, log 5). -/
def Obligations.StepExecutesDecodedFrame : Prop :=
  ∀ (s : State) (ctx : Context) (F : Frame) (rest : List Turn) (i : Instr),
    s.inbox = .frame ctx F :: rest → waits s ctx F = false → decode s.cfg F = .ok i →
      (isStimulus F = true → step s = exec i { s with inbox := rest }) ∧
      (isStimulus F = false → step s = exec i { s with inbox := rest, ctx := ctx })

/-- R9, R12 (model's choice: log 4): a host frame waits while a byte-wise composite operation of its own agent, or of
the interrupt-context host, is under way, and the step is that operation's next one; a stimulus frame never waits. -/
def Obligations.HostFrameWaitsForTransfer : Prop :=
  ∀ (s : State) (ctx : Context) (F : Frame) (rest : List Turn),
    s.inbox = .frame ctx F :: rest →
      (isStimulus F = true → waits s ctx F = false) ∧
      (isStimulus F = false → ∀ j, s.irqJob = some j → step s = transferStep .interrupt j s) ∧
      (isStimulus F = false → s.irqJob = none → ctx = .foreground → ∀ j, s.fgJob = some j →
        step s = transferStep .foreground j s) ∧
      (s.irqJob = none → (ctx = .interrupt ∨ s.fgJob = none) → waits s ctx F = false)

/-- R260, R262, R263: a hardware reset puts every variable at its reset value, ends every operation under way, starts a
new trace, and leaves the store as it was, but for the byte whose write was under way.
The values are the spec's own decisions D10, D29, D36. -/
def Obligations.HardwareResetPutsResetValues : Prop :=
  ∀ (s : State) (rest : List Turn), s.inbox = .reset :: rest →
    ∃ t, step s = .next t ∧ t.cfg = s.cfg ∧ t.inbox = rest ∧
      t.tick.ms = 0 ∧ t.tick.sub = 0 ∧ t.tick.sec = 0 ∧
      t.adc.channels.length = s.cfg.nCh ∧ (∀ c ∈ t.adc.channels, c.idx = 0) ∧ t.adc.ch = 0 ∧ t.adc.inflight = false ∧
      t.nv.busy = false ∧ t.nv.ie = false ∧
      t.ser.tx.inp = 0 ∧ t.ser.tx.out = 0 ∧ t.ser.rx.inp = 0 ∧ t.ser.rx.out = 0 ∧ t.ser.txBusy = false ∧
      t.ser.on = false ∧
      (∀ l : Line, t.line l = { handler := 0, ie := false, latched := false }) ∧
      t.sched = { events := [], nextId := 0, prevMs := 0, walk := .idle } ∧
      t.trace = [] ∧ t.ctx = .foreground ∧ t.fgJob = none ∧ t.irqJob = none ∧
      ∀ a : Nat, ¬ (s.nv.busy = true ∧ s.nv.first.toNat < s.nv.addr.toNat ∧ a + 1 = s.nv.addr.toNat) →
        t.nv.store.read a = s.nv.store.read a

/-- R261: straight after a hardware reset `EV_TICK` is possible; each of the other events is answered `NOT_ENABLED` and
emits nothing.
R261 is marked by the spec as derived from R260 and R85. -/
def Obligations.OnlyTickEnabledAfterReset : Prop :=
  ∀ (s : State) (i : Instr), i.isEvent = true →
    ∃ t, exec i (hardReset s) = .next t ∧ t.trace = [] ∧
      t.answers = [{ op := some i.opcode, status := if i = .evTick then .ok else .notEnabled, res := 0 }]

/-- R22 to R35, R171 at reset: the invariant holds of the state after reset (its unspecified values are the model's
choice, log 8). -/
def Obligations.ResetSatisfiesInvariant : Prop := Inv State.reset

/-- R26, R28, R32, R35, R37, R171, R214: every step keeps the invariant, from every state that satisfies it, whatever
turn comes next. -/
def Obligations.StepKeepsInvariant : Prop := ∀ s t : State, Inv s → step s = .next t → Inv t

/-- R230: no step from a state that satisfies the invariant faults. -/
def Obligations.InvariantStatesAreSafe : Prop := ∀ s : State, Inv s → Safe s

/-- R7: no step changes the parameters. -/
def Obligations.StepKeepsParameters : Prop := ∀ s t : State, step s = .next t → t.cfg = s.cfg

/-! ## Tick Source -/

/-- R110, R111: the answer is the whole counter, and nothing else changes. -/
def Obligations.NowAnswersTheCounters : Prop :=
  encode .nowMs = 0#32 ++ 0#32 ++ 0#32 ++ 0#24 ++ 0x10#8 ∧
  encode .nowS = 0#32 ++ 0#32 ++ 0#32 ++ 0#24 ++ 0x11#8 ∧
  ∀ s : State,
    exec .nowMs s = .next { s with answers := s.answers ++ [{ op := some .nowMs, status := .ok, res := s.tick.ms }] } ∧
    exec .nowS s = .next { s with answers := s.answers ++ [{ op := some .nowS, status := .ok, res := s.tick.sec }] }

/-- R112: `ms` advances modulo `2^W_MS`; every 1000th increment clears `sub` and advances `sec` modulo `2^W_S`; nothing
else changes.
That it is enabled in every state is the spec's own decision D29, the separate count `sub` D9. -/
def Obligations.TickAdvancesTheCounters : Prop :=
  encode .evTick = 0#32 ++ 0#32 ++ 0#32 ++ 0#24 ++ 0x80#8 ∧
  ∀ s : State, s.cfg.valid → s.tick.sub.toNat < 1000 →
    ∃ t, exec .evTick s = .next t ∧
      t.tick.ms.toNat = (s.tick.ms.toNat + 1) % 2 ^ s.cfg.wMs ∧
      (s.tick.sub.toNat + 1 = 1000 → t.tick.sub = 0 ∧ t.tick.sec.toNat = (s.tick.sec.toNat + 1) % 2 ^ s.cfg.wS) ∧
      (s.tick.sub.toNat + 1 ≠ 1000 → t.tick.sub.toNat = s.tick.sub.toNat + 1 ∧ t.tick.sec = s.tick.sec) ∧
      t = { s with tick := t.tick, answers := s.answers ++ [{ op := some .evTick, status := .ok, res := 0 }] }

/-- R113: `n` ticks from zeroed counters give `ms = n`, `sub = n mod 1000` and `sec = n div 1000`, each at its width.
The spec marks this part of R113 as derived from R112.
The separate count `sub` is the spec's own decision D9. -/
def Obligations.SecondsCountThousandTicks : Prop :=
  ∀ (s : State) (n : Nat), s.cfg.valid → s.tick = { ms := 0, sub := 0, sec := 0 } →
    ∃ t, execAll (List.replicate n .evTick) s = .next t ∧
      t.tick.ms.toNat = n % 2 ^ s.cfg.wMs ∧ t.tick.sub.toNat = n % 1000 ∧
      t.tick.sec.toNat = (n / 1000) % 2 ^ s.cfg.wS

/-! ## Averaging Sampler -/

/-- R120: `ADC_START` is refused while a conversion is in flight; otherwise it resets the selector and, with the
converter on, starts the conversion of channel 0.
The refusal and the case of a converter that is off are the spec's own decisions D13, D12. -/
def Obligations.AdcStartBeginsRotation : Prop :=
  encode .adcStart = 0#32 ++ 0#32 ++ 0#32 ++ 0#24 ++ 0x20#8 ∧
  ∀ s : State,
    (s.adc.inflight = true → exec .adcStart s = .refused .alreadyScanning) ∧
    (s.adc.inflight = false → s.adc.on = true →
      exec .adcStart s = .next { s with
        adc := { s.adc with ch := 0, inflight := true }
        trace := s.trace ++ [.convert 0]
        answers := s.answers ++ [{ op := some .adcStart, status := .ok, res := 0 }] }) ∧
    (s.adc.inflight = false → s.adc.on = false →
      exec .adcStart s = .next { s with
        adc := { s.adc with ch := 0 }
        answers := s.answers ++ [{ op := some .adcStart, status := .ok, res := 0 }] })

/-- R121: the answer is the exact sum of the channel's eight slots divided by 8, rounded toward zero; nothing else
changes.
The exact sum and the truncation are the spec's own decision D11. -/
def Obligations.AdcReadAnswersTruncatedMean : Prop :=
  (∀ ch, encode (.adcRead ch) = 0#32 ++ 0#32 ++ ch ++ 0#24 ++ 0x21#8) ∧
  ∀ (s : State) (ch : Word) (c : Channel), s.adc.channels[ch.toNat]? = some c →
    ∃ v : Word,
      v.toNat = (c.slots[0].toNat + c.slots[1].toNat + c.slots[2].toNat + c.slots[3].toNat + c.slots[4].toNat +
        c.slots[5].toNat + c.slots[6].toNat + c.slots[7].toNat) / 8 ∧
      exec (.adcRead ch) s = .next { s with
        answers := s.answers ++ [{ op := some .adcRead, status := .ok, res := v }] }

/-- R122: off abandons the conversion in flight, on does not start one; buffers, indices and selector stay.
What happens to a conversion in flight, and that on starts none, is the spec's own decision D12. -/
def Obligations.AdcPowerSetsTheToggle : Prop :=
  encode (.adcPower true) = 0#32 ++ 0#32 ++ 1#32 ++ 0#24 ++ 0x22#8 ∧
  encode (.adcPower false) = 0#32 ++ 0#32 ++ 0#32 ++ 0#24 ++ 0x22#8 ∧
  ∀ (s : State) (on : Bool),
    exec (.adcPower on) s = .next { s with
      adc := { s.adc with on := on, inflight := on && s.adc.inflight }
      answers := s.answers ++ [{ op := some .adcPower, status := .ok, res := 0 }] }

/-- R123: while enabled, the reading goes to the slot and channel selected, both indices advance, and the conversion of
the new channel starts; while not, `NOT_ENABLED` and nothing changes. -/
def Obligations.AdcDoneStoresAndRotates : Prop :=
  (∀ v, encode (.evAdcDone v) = 0#32 ++ 0#32 ++ v ++ 0#24 ++ 0x81#8) ∧
  ∀ (s : State) (v : Word),
    ((s.adc.on && s.adc.inflight) = false →
      exec (.evAdcDone v) s = .next { s with
        answers := s.answers ++ [{ op := some .evAdcDone, status := .notEnabled, res := 0 }] }) ∧
    (s.adc.on = true → s.adc.inflight = true → ∀ c, s.adc.channels[s.adc.ch]? = some c →
      ∃ (t : State) (c' : Channel), exec (.evAdcDone v) s = .next t ∧
        t.adc.channels[s.adc.ch]? = some c' ∧
        (∀ (k : Nat) (hk : k < 8), c'.slots[k] = if k = c.idx.toNat then v else c.slots[k]) ∧
        c'.idx.toNat = (c.idx.toNat + 1) % 8 ∧
        (∀ k, k ≠ s.adc.ch → t.adc.channels[k]? = s.adc.channels[k]?) ∧
        t.adc.ch = (s.adc.ch + 1) % s.cfg.nCh ∧ t.adc.on = s.adc.on ∧ t.adc.inflight = s.adc.inflight ∧
        t = { s with
          adc := t.adc
          trace := s.trace ++ [.convert t.adc.ch]
          answers := s.answers ++ [{ op := some .evAdcDone, status := .ok, res := 0 }] })

/-- R124: over `N_CH` consecutive conversions each channel stores exactly one of the readings, in rotation order, and
the selector comes back.
The spec marks the order as derived from R123. -/
def Obligations.RotationIsRoundRobin : Prop :=
  ∀ (s : State) (vs : List Word), Inv s → s.adc.inflight = true → vs.length = s.cfg.nCh →
    ∃ t, execAll (vs.map .evAdcDone) s = .next t ∧ t.adc.ch = s.adc.ch ∧
      t.adc.channels.length = s.adc.channels.length ∧
      ∀ (j : Nat) (v : Word), vs[j]? = some v →
        ∃ c c' : Channel,
          s.adc.channels[(s.adc.ch + j) % s.cfg.nCh]? = some c ∧
          t.adc.channels[(s.adc.ch + j) % s.cfg.nCh]? = some c' ∧
          c'.idx = c.idx + 1 ∧
          ∀ (k : Nat) (hk : k < 8), c'.slots[k] = if k = c.idx.toNat then v else c.slots[k]

/-- R125: after `8 * N_CH` conversions `ADC_READ` of a channel answers the truncated mean of the eight readings stored
for it.
The spec marks this reading of R125 as derived from R121 and R123.
The exact sum and the truncation are the spec's own decision D11. -/
def Obligations.MeanOfLastEightReadings : Prop :=
  ∀ (s : State) (vs : List Word), Inv s → s.adc.inflight = true → vs.length = 8 * s.cfg.nCh →
    ∃ t, execAll (vs.map .evAdcDone) s = .next t ∧
      ∀ (j : Nat) (ch : Word), j < s.cfg.nCh → ch.toNat = (s.adc.ch + j) % s.cfg.nCh →
        ∃ v : Word,
          v.toNat = ((List.range 8).map (fun k => (vs.getD (j + k * s.cfg.nCh) 0).toNat)).sum / 8 ∧
          exec (.adcRead ch) t = .next { t with
            answers := t.answers ++ [{ op := some .adcRead, status := .ok, res := v }] }

/-! ## Async Non-Volatile Writer -/

/-- R140: the answer is `nv_busy`, and nothing else changes. -/
def Obligations.NvBusyAnswersTheFlag : Prop :=
  encode .nvBusy = 0#32 ++ 0#32 ++ 0#32 ++ 0#24 ++ 0x30#8 ∧
  ∀ s : State,
    exec .nvBusy s = .next { s with
      answers := s.answers ++ [{ op := some .nvBusy, status := .ok, res := if s.nv.busy then 1 else 0 }] }

/-- R141, from every context but the one R245 (b) excludes: busy is rejected first, then a range past the end; size 0 is
answered at once with no change; otherwise the job is recorded and the next address answered.
The order of the tests, the bound and size 0 are the spec's own decision D14. -/
def Obligations.NvWriteAcceptsOrRejects : Prop :=
  (∀ a b c, encode (.nvWrite a b c) = c ++ b ++ a ++ 0#24 ++ 0x31#8) ∧
  ∀ (s : State) (a b c : Word), s.cfg.valid →
    ¬ (s.ctx = .interrupt ∧ ∃ x y z i, s.fgJob = some (.nvRead x y z i)) →
    (s.nv.busy = true →
      exec (.nvWrite a b c) s = .next { s with
        answers := s.answers ++ [{ op := some .nvWrite, status := .rejectedBusy, res := 0 }] }) ∧
    (s.nv.busy = false → s.cfg.nvSize < a.toNat + c.toNat →
      exec (.nvWrite a b c) s = .next { s with
        answers := s.answers ++ [{ op := some .nvWrite, status := .capacityExceeded, res := 0 }] }) ∧
    (s.nv.busy = false → a.toNat + c.toNat ≤ s.cfg.nvSize → c = 0 →
      exec (.nvWrite a b c) s = .next { s with
        answers := s.answers ++ [{ op := some .nvWrite, status := .ok, res := a }] }) ∧
    (s.nv.busy = false → a.toNat + c.toNat ≤ s.cfg.nvSize → c ≠ 0 →
      ∃ v : Word, v.toNat = a.toNat + c.toNat ∧
        exec (.nvWrite a b c) s = .next { s with
          nv := { busy := true, ie := true, addr := a, rem := c, src := b, first := a, store := s.nv.store }
          answers := s.answers ++ [{ op := some .nvWrite, status := .ok, res := v }] })

/-- R142: not enabled, `NOT_ENABLED`; no byte left, the job ends; otherwise the byte at `nv_src` in host memory goes to
`nv_addr` in the store and the job moves on by one byte. -/
def Obligations.NvReadyMovesOneByte : Prop :=
  encode .evNvReady = 0#32 ++ 0#32 ++ 0#32 ++ 0#24 ++ 0x82#8 ∧
  ∀ s : State, s.cfg.valid → s.nv.store.wf →
    (s.nv.ie = false →
      exec .evNvReady s = .next { s with
        answers := s.answers ++ [{ op := some .evNvReady, status := .notEnabled, res := 0 }] }) ∧
    (s.nv.ie = true → s.nv.rem = 0 →
      exec .evNvReady s = .next { s with
        nv := { s.nv with ie := false, busy := false }
        answers := s.answers ++ [{ op := some .evNvReady, status := .ok, res := 0 }] }) ∧
    (s.nv.ie = true → s.nv.rem ≠ 0 → s.nv.addr.toNat < s.cfg.nvSize →
      ∃ t, exec .evNvReady s = .next t ∧
        t.nv.addr.toNat = s.nv.addr.toNat + 1 ∧ t.nv.rem.toNat + 1 = s.nv.rem.toNat ∧
        t.nv.src.toNat = (s.nv.src.toNat + 1) % 2 ^ s.cfg.wAddr ∧
        t.nv.busy = s.nv.busy ∧ t.nv.ie = s.nv.ie ∧ t.nv.first = s.nv.first ∧
        (∀ x, t.nv.store.read x = if x = s.nv.addr.toNat then s.mem.read s.nv.src.toNat else s.nv.store.read x) ∧
        t = { s with
          nv := t.nv
          trace := s.trace ++ [.nvWrite s.nv.addr.toNat (s.mem.read s.nv.src.toNat)]
          answers := s.answers ++ [{ op := some .evNvReady, status := .ok, res := 0 }] })

/-- R143: the two rejections and size 0; otherwise the operation is its byte steps `i = 0 .. C - 1`, the first of them
at once. Each moves one byte from the store to host memory and emits one strobe; the last one answers (`transferStep`,
`job`: the issuing agent's operation under way, log 4). The two rejections are the spec's own decision D15. -/
def Obligations.NvReadTestsAndByteSteps : Prop :=
  (∀ a b c, encode (.nvRead a b c) = c ++ b ++ a ++ 0#24 ++ 0x32#8) ∧
  ∀ (s : State) (a b c : Word), s.cfg.valid → s.mem.wf →
    (s.nv.busy = true →
      exec (.nvRead a b c) s = .next { s with
        answers := s.answers ++ [{ op := some .nvRead, status := .rejectedBusy, res := 0 }] }) ∧
    (s.nv.busy = false → s.cfg.nvSize < a.toNat + c.toNat →
      exec (.nvRead a b c) s = .next { s with
        answers := s.answers ++ [{ op := some .nvRead, status := .capacityExceeded, res := 0 }] }) ∧
    (s.nv.busy = false → a.toNat + c.toNat ≤ s.cfg.nvSize → c = 0 →
      exec (.nvRead a b c) s = .next { s with
        answers := s.answers ++ [{ op := some .nvRead, status := .ok, res := 0 }] }) ∧
    (s.nv.busy = false → a.toNat + c.toNat ≤ s.cfg.nvSize → c ≠ 0 →
      exec (.nvRead a b c) s = transferStep s.ctx (.nvRead a b c 0) s) ∧
    ∀ (ctx : Context) (i : Nat), i < c.toNat → a.toNat + c.toNat ≤ s.cfg.nvSize →
      ∃ t, transferStep ctx (.nvRead a b c i) s = .next t ∧
        (∀ x, t.mem.read x =
          if x = (b.toNat + i) % 2 ^ s.cfg.wAddr then s.nv.store.read (a.toNat + i) else s.mem.read x) ∧
        (i + 1 = c.toNat → t.job ctx = none ∧
          t.answers = s.answers ++ [{ op := some .nvRead, status := .ok, res := 0 }]) ∧
        (i + 1 < c.toNat → t.job ctx = some (.nvRead a b c (i + 1)) ∧ t.answers = s.answers) ∧
        (∀ other, other ≠ ctx → t.job other = s.job other) ∧
        t = { s with
          mem := t.mem
          trace := s.trace ++ [.nvRead (a.toNat + i)]
          answers := t.answers
          fgJob := t.fgJob
          irqJob := t.irqJob }

/-- R143 to its end, from either context: with no other turn between its steps, `NV_READ` of `C > 0` bytes copies the
range byte by byte, in order, in `C` steps, answers `OK` after the last, and leaves every other byte of host memory and
the store alone. The count of steps is the model's reading, log 4. -/
def Obligations.NvReadCopiesTheRange : Prop :=
  ∀ (s : State) (a b c : Word), s.cfg.valid → s.mem.wf → s.inbox = [] → s.irqJob = none →
    s.nv.busy = false → c ≠ 0 → a.toNat + c.toNat ≤ s.cfg.nvSize → c.toNat ≤ 2 ^ s.cfg.wAddr →
    ∃ t₀ t, exec (.nvRead a b c) s = .next t₀ ∧ steps (c.toNat - 1) t₀ = .next t ∧
      (∀ k, k < c.toNat → t.mem.read ((b.toNat + k) % 2 ^ s.cfg.wAddr) = s.nv.store.read (a.toNat + k)) ∧
      (∀ x, (∀ k, k < c.toNat → x ≠ (b.toNat + k) % 2 ^ s.cfg.wAddr) → t.mem.read x = s.mem.read x) ∧
      t = { s with
        mem := t.mem
        trace := s.trace ++ (List.range c.toNat).map (fun k => .nvRead (a.toNat + k))
        answers := s.answers ++ [{ op := some .nvRead, status := .ok, res := 0 }]
        fgJob := if s.ctx = .foreground then none else s.fgJob }

/-- R144: a job of `C > 0` bytes takes exactly `C + 1` occurrences of `EV_NV_READY`: after each of the first `C`, which
write one byte each, in order, it is still under way; the next one ends it, and one more is not enabled.
The spec marks R144 as derived from R141 and R142. -/
def Obligations.JobTakesOneEventMoreThanBytes : Prop :=
  ∀ (s : State) (a b c : Word), s.cfg.valid → s.nv.store.wf →
    ¬ (s.ctx = .interrupt ∧ ∃ x y z i, s.fgJob = some (.nvRead x y z i)) → s.nv.busy = false → c ≠ 0 →
    a.toNat + c.toNat ≤ s.cfg.nvSize → b.toNat < 2 ^ s.cfg.wAddr →
    (∀ n, n ≤ c.toNat →
      ∃ t, execAll (.nvWrite a b c :: List.replicate n .evNvReady) s = .next t ∧
        t.nv.busy = true ∧ t.nv.ie = true ∧
        t.trace = s.trace ++ (List.range n).map
          (fun k => .nvWrite (a.toNat + k) (s.mem.read ((b.toNat + k) % 2 ^ s.cfg.wAddr))) ∧
        (∀ k, k < n → t.nv.store.read (a.toNat + k) = s.mem.read ((b.toNat + k) % 2 ^ s.cfg.wAddr)) ∧
        ∀ x, x < a.toNat ∨ a.toNat + n ≤ x → t.nv.store.read x = s.nv.store.read x) ∧
    ∃ t u, execAll (.nvWrite a b c :: List.replicate c.toNat .evNvReady) s = .next t ∧
      exec .evNvReady t = .next u ∧ u.nv.busy = false ∧ u.nv.ie = false ∧ u.nv.store = t.nv.store ∧
      u.trace = t.trace ∧
      exec .evNvReady u = .next { u with
        answers := u.answers ++ [{ op := some .evNvReady, status := .notEnabled, res := 0 }] }

/-- R145: writing `C` bytes at `A` from a buffer that nobody changes, letting the job end, and reading `C` bytes from
`A` into memory gives the original bytes there; size 0 is two answers and no other change. The spec marks R145's
condition as derived from R141, R142 and R143.
The count of steps is the model's reading, log 4.
Size 0 and the exact bound are the spec's own decisions D14, D15. -/
def Obligations.WriteThenReadGivesTheBytes : Prop :=
  ∀ (s : State) (a b c d : Word), s.cfg.valid → s.nv.store.wf → s.mem.wf → s.inbox = [] →
    ¬ (s.ctx = .interrupt ∧ ∃ x y z i, s.fgJob = some (.nvRead x y z i)) → s.irqJob = none → s.nv.busy = false →
    a.toNat + c.toNat ≤ s.cfg.nvSize → c.toNat ≤ 2 ^ s.cfg.wAddr →
    b.toNat < 2 ^ s.cfg.wAddr →
    (c ≠ 0 →
      ∃ u v t, execAll (.nvWrite a b c :: List.replicate (c.toNat + 1) .evNvReady) s = .next u ∧
        exec (.nvRead a d c) u = .next v ∧ steps (c.toNat - 1) v = .next t ∧
        ∀ k, k < c.toNat →
          t.mem.read ((d.toNat + k) % 2 ^ s.cfg.wAddr) = s.mem.read ((b.toNat + k) % 2 ^ s.cfg.wAddr)) ∧
    (c = 0 →
      execAll [.nvWrite a b c, .nvRead a d c] s = .next { s with
        answers := s.answers ++ [{ op := some .nvWrite, status := .ok, res := a },
                                 { op := some .nvRead, status := .ok, res := 0 }] })

/-! ## Duplex Serial Driver -/

/-- R161: `ser_on` is set and nothing else changes. -/
def Obligations.SerConfigEnablesTheLink : Prop :=
  encode .serConfig = 0#32 ++ 0#32 ++ 0#32 ++ 0#24 ++ 0x40#8 ∧
  ∀ s : State,
    exec .serConfig s = .next { s with
      ser := { s.ser with on := true }
      answers := s.answers ++ [{ op := some .serConfig, status := .ok, res := 0 }] }

/-- R162, from every context but the one R245 (b) excludes: refused before `SER_CONFIG`; with the transmitter busy the
byte is queued; with it idle (and its queue then empty, R171) the byte goes straight to the line. -/
def Obligations.SerPushTxQueuesOrSends : Prop :=
  (∀ b, encode (.serPushTx b) = 0#32 ++ 0#32 ++ b.setWidth 32 ++ 0#24 ++ 0x41#8) ∧
  ∀ (s : State) (b : Byte), ¬ (s.ctx = .interrupt ∧ ∃ p, s.fgJob = some (.sendStr p)) →
    (s.ser.on = false → exec (.serPushTx b) s = .refused .linkNotConfigured) ∧
    (s.ser.on = true → s.ser.txBusy = true →
      ∃ q, s.ser.tx.IsPush b q ∧
        exec (.serPushTx b) s = .next { s with
          ser := { s.ser with tx := q }
          answers := s.answers ++ [{ op := some .serPushTx, status := .ok, res := 0 }] }) ∧
    (s.ser.on = true → s.ser.txBusy = false → s.ser.tx.inp = s.ser.tx.out →
      ∃ q q', s.ser.tx.IsPush b q ∧ q.IsPop b q' ∧ q'.inp = q'.out ∧
        exec (.serPushTx b) s = .next { s with
          ser := { s.ser with tx := q', txBusy := true }
          trace := s.trace ++ [.txByte b]
          answers := s.answers ++ [{ op := some .serPushTx, status := .ok, res := 0 }] })

/-- R163, R165: a pop from an empty queue answers `EMPTY` with `res = 0xFFFF_FFFF`; otherwise it answers the oldest byte
and moves "out" on. `SER_POP_TX` so from every context but the one R245 (b) excludes, `SER_POP_RX` from every one.
The value of the sentinel is the spec's own decision D18. -/
def Obligations.SerPopsAnswerOldestByte : Prop :=
  encode .serPopTx = 0#32 ++ 0#32 ++ 0#32 ++ 0#24 ++ 0x42#8 ∧
  encode .serPopRx = 0#32 ++ 0#32 ++ 0#32 ++ 0#24 ++ 0x44#8 ∧
  ∀ s : State,
    (¬ (s.ctx = .interrupt ∧ ∃ p, s.fgJob = some (.sendStr p)) →
      (s.ser.tx.inp = s.ser.tx.out →
        exec .serPopTx s = .next { s with
          answers := s.answers ++ [{ op := some .serPopTx, status := .empty, res := 0xFFFFFFFF }] }) ∧
      (s.ser.tx.inp ≠ s.ser.tx.out →
        ∃ b q, s.ser.tx.IsPop b q ∧
          exec .serPopTx s = .next { s with
            ser := { s.ser with tx := q }
            answers := s.answers ++ [{ op := some .serPopTx, status := .ok, res := b.setWidth 32 }] })) ∧
    (s.ser.rx.inp = s.ser.rx.out →
      exec .serPopRx s = .next { s with
        answers := s.answers ++ [{ op := some .serPopRx, status := .empty, res := 0xFFFFFFFF }] }) ∧
    (s.ser.rx.inp ≠ s.ser.rx.out →
      ∃ b q, s.ser.rx.IsPop b q ∧
        exec .serPopRx s = .next { s with
          ser := { s.ser with rx := q }
          answers := s.answers ++ [{ op := some .serPopRx, status := .ok, res := b.setWidth 32 }] })

/-- R164: `SER_SEND_STR` is refused before `SER_CONFIG` and otherwise starts with its first iteration (from every
context but the one R245 (b) excludes). One iteration, of the agent `ctx` whose operation it is, whichever context
issued the last host frame: a zero byte ends the operation with its answer; any other byte is pushed as `SER_PUSH_TX`
pushes it, with no answer, and the pointer moves on. That the first iteration is part of the starting step, and one
slot for each agent, is the model's reading, log 4. -/
def Obligations.SendStrIteration : Prop :=
  (∀ p, encode (.serSendStr p) = 0#32 ++ 0#32 ++ p ++ 0#24 ++ 0x43#8) ∧
  ∀ (s : State) (p : Word), s.cfg.valid →
    (¬ (s.ctx = .interrupt ∧ ∃ q, s.fgJob = some (.sendStr q)) →
      (s.ser.on = false → exec (.serSendStr p) s = .refused .linkNotConfigured) ∧
      (s.ser.on = true → exec (.serSendStr p) s = transferStep s.ctx (.sendStr p) s)) ∧
    ∀ ctx : Context,
      (s.mem.read p.toNat = 0 →
        transferStep ctx (.sendStr p) s = .next { s.setJob ctx none with
          answers := s.answers ++ [{ op := some .serSendStr, status := .ok, res := 0 }] }) ∧
      (s.mem.read p.toNat ≠ 0 → s.ser.on = true → (s.ser.txBusy = false → s.ser.tx.inp = s.ser.tx.out) →
        ∃ (u : State) (p' : Word),
          exec (.serPushTx (s.mem.read p.toNat)) { s with ctx := .foreground } = .next u ∧
          p'.toNat = (p.toNat + 1) % 2 ^ s.cfg.wAddr ∧
          transferStep ctx (.sendStr p) s =
            .next { u.setJob ctx (some (.sendStr p')) with answers := s.answers, ctx := s.ctx })

/-- R164 and R93: with no other turn between its steps, `SER_SEND_STR` of a text has the effect of one `SER_PUSH_TX` per
byte, in order, with one answer; from every context but the one R245 (b) excludes. The count of steps is the model's
reading, log 4. -/
def Obligations.SendStrIsOnePushPerByte : Prop :=
  ∀ (s : State) (p : Word) (text : List Byte), s.cfg.valid → s.inbox = [] →
    ¬ (s.ctx = .interrupt ∧ ∃ q, s.fgJob = some (.sendStr q)) → s.irqJob = none →
    (s.ctx = .foreground → s.fgJob = none) → s.ser.on = true → (s.ser.txBusy = false → s.ser.tx.inp = s.ser.tx.out) →
    p.toNat < 2 ^ s.cfg.wAddr →
    (∀ (k : Nat) (b : Byte), text[k]? = some b → b ≠ 0 ∧ s.mem.read ((p.toNat + k) % 2 ^ s.cfg.wAddr) = b) →
    s.mem.read ((p.toNat + text.length) % 2 ^ s.cfg.wAddr) = 0 →
    ∃ t₀ t u, exec (.serSendStr p) s = .next t₀ ∧ steps text.length t₀ = .next t ∧
      execAll (text.map .serPushTx) s = .next u ∧
      t = { u with answers := s.answers ++ [{ op := some .serSendStr, status := .ok, res := 0 }] }

/-- R166, R167: the two serial events, each `NOT_ENABLED` with no change while its guard is false. -/
def Obligations.SerialEventsMoveBytes : Prop :=
  (∀ b, encode (.evSerRx b) = 0#32 ++ 0#32 ++ b.setWidth 32 ++ 0#24 ++ 0x83#8) ∧
  encode .evSerTxc = 0#32 ++ 0#32 ++ 0#32 ++ 0#24 ++ 0x84#8 ∧
  ∀ (s : State) (b : Byte),
    (s.ser.on = false →
      exec (.evSerRx b) s = .next { s with
        answers := s.answers ++ [{ op := some .evSerRx, status := .notEnabled, res := 0 }] }) ∧
    (s.ser.on = true →
      ∃ q, s.ser.rx.IsPush b q ∧
        exec (.evSerRx b) s = .next { s with
          ser := { s.ser with rx := q }
          answers := s.answers ++ [{ op := some .evSerRx, status := .ok, res := 0 }] }) ∧
    ((s.ser.on && s.ser.txBusy) = false →
      exec .evSerTxc s = .next { s with
        answers := s.answers ++ [{ op := some .evSerTxc, status := .notEnabled, res := 0 }] }) ∧
    (s.ser.on = true → s.ser.txBusy = true → s.ser.tx.inp = s.ser.tx.out →
      exec .evSerTxc s = .next { s with
        ser := { s.ser with txBusy := false }
        answers := s.answers ++ [{ op := some .evSerTxc, status := .ok, res := 0 }] }) ∧
    (s.ser.on = true → s.ser.txBusy = true → s.ser.tx.inp ≠ s.ser.tx.out →
      ∃ c q, s.ser.tx.IsPop c q ∧
        exec .evSerTxc s = .next { s with
          ser := { s.ser with tx := q }
          trace := s.trace ++ [.txByte c]
          answers := s.answers ++ [{ op := some .evSerTxc, status := .ok, res := 0 }] })

/-- R168, receive: up to 127 bytes that arrive on an empty queue are popped in the order of arrival. -/
def Obligations.ReceiveQueueIsFifo : Prop :=
  ∀ (s : State) (bs : List Byte), s.ser.on = true → s.ser.rx.inp = s.ser.rx.out → bs.length ≤ 127 →
    ∃ t, execAll (bs.map .evSerRx ++ List.replicate bs.length .serPopRx) s = .next t ∧
      t.ser.rx.inp = t.ser.rx.out ∧
      t.answers = s.answers ++ List.replicate bs.length { op := some .evSerRx, status := .ok, res := 0 } ++
        bs.map (fun b => { op := some .serPopRx, status := .ok, res := b.setWidth 32 })

/-- R168, transmit: up to 128 bytes pushed on an idle link reach the line in the order pushed, the first at its push and
the rest one per `EV_SER_TXC`, with the transmitter busy throughout; the event after the last byte ends the
transmission. -/
def Obligations.TransmitQueueIsFifo : Prop :=
  ∀ (s : State) (bs : List Byte), ¬ (s.ctx = .interrupt ∧ ∃ p, s.fgJob = some (.sendStr p)) →
    s.ser.on = true → s.ser.txBusy = false →
    s.ser.tx.inp = s.ser.tx.out → bs ≠ [] → bs.length ≤ 128 →
    (∀ m, 1 ≤ m → m ≤ bs.length →
      ∃ t, execAll ((bs.take m).map .serPushTx) s = .next t ∧
        t.trace = s.trace ++ (bs.take 1).map .txByte ∧ t.ser.txBusy = true) ∧
    (∀ k, k < bs.length →
      ∃ t, execAll (bs.map .serPushTx ++ List.replicate k .evSerTxc) s = .next t ∧
        t.trace = s.trace ++ (bs.take (k + 1)).map .txByte ∧ t.ser.txBusy = true) ∧
    ∃ t, execAll (bs.map .serPushTx ++ List.replicate bs.length .evSerTxc) s = .next t ∧
      t.trace = s.trace ++ bs.map .txByte ∧ t.ser.txBusy = false ∧ t.ser.tx.inp = t.ser.tx.out

/-- R169, R170: the push that finds a queue seen to hold 127 bytes makes it read as empty. Receive: the next pop answers
`EMPTY`, and the next arrival is all the queue is seen to hold. Transmit: the next `EV_SER_TXC` sends nothing and clears
the flag.
The spec marks both as derived from R160 and the operations' rules.
The value of the sentinel is the spec's own decision D18. -/
def Obligations.FullQueueReadsAsEmpty : Prop :=
  ∀ (s : State) (b c : Byte), ¬ (s.ctx = .interrupt ∧ ∃ p, s.fgJob = some (.sendStr p)) → s.ser.on = true →
    ((s.ser.rx.inp.toNat + 128 - s.ser.rx.out.toNat) % 128 = 127 →
      ∃ t, execAll [.evSerRx b, .serPopRx, .evSerRx c, .serPopRx, .serPopRx] s = .next t ∧
        t.ser.rx.inp = t.ser.rx.out ∧
        t.answers = s.answers ++
          [{ op := some .evSerRx, status := .ok, res := 0 },
           { op := some .serPopRx, status := .empty, res := 0xFFFFFFFF },
           { op := some .evSerRx, status := .ok, res := 0 },
           { op := some .serPopRx, status := .ok, res := c.setWidth 32 },
           { op := some .serPopRx, status := .empty, res := 0xFFFFFFFF }]) ∧
    ((s.ser.tx.inp.toNat + 128 - s.ser.tx.out.toNat) % 128 = 127 → s.ser.txBusy = true →
      ∃ t, execAll [.serPushTx b, .evSerTxc] s = .next t ∧ t.ser.tx.inp = t.ser.tx.out ∧
        t.ser.txBusy = false ∧ t.trace = s.trace)

/-! ## External Signal Dispatch -/

/-- R187: a non-null handler is recorded and its line enabled, and a remembered edge (`EXT_LATCH`) invokes it at once;
null disables the line and binds the no-op. The other line does not change. -/
def Obligations.ExtBindSetsTheSlot : Prop :=
  (∀ h, encode (.extBind .ext0 h) = 0#32 ++ h ++ 0#32 ++ 0#24 ++ 0x50#8) ∧
  (∀ h, encode (.extBind .ext1 h) = 0#32 ++ h ++ 1#32 ++ 0#24 ++ 0x50#8) ∧
  ∀ (s : State) (l : Line) (h : Word),
    ∃ t, exec (.extBind l h) s = .next t ∧
      (h ≠ 0 → (s.cfg.extLatch && (s.line l).latched) = false →
        t.line l = { handler := h, ie := true, latched := (s.line l).latched } ∧ t.trace = s.trace) ∧
      (h ≠ 0 → (s.cfg.extLatch && (s.line l).latched) = true →
        t.line l = { handler := h, ie := true, latched := false } ∧
        t.trace = s.trace ++ [.invoke (match l with | .ext0 => .ext0 | .ext1 => .ext1) 0 h 0]) ∧
      (h = 0 → t.line l = { handler := 0, ie := false, latched := (s.line l).latched } ∧ t.trace = s.trace) ∧
      (∀ l', l' ≠ l → t.line l' = s.line l') ∧
      t = { s with
        ext := t.ext
        trace := t.trace
        answers := s.answers ++ [{ op := some .extBind, status := .ok, res := 0 }] }

/-- R188, R189: an edge on an enabled line invokes exactly the bound handler (the no-op emits nothing); on a disabled
line it is answered `NOT_ENABLED`, invokes nothing, and is remembered only under `EXT_LATCH`. -/
def Obligations.EdgeInvokesBoundHandler : Prop :=
  encode (.evExt .ext0) = 0#32 ++ 0#32 ++ 0#32 ++ 0#24 ++ 0x85#8 ∧
  encode (.evExt .ext1) = 0#32 ++ 0#32 ++ 1#32 ++ 0#24 ++ 0x85#8 ∧
  ∀ (s : State) (l : Line),
    ∃ t, exec (.evExt l) s = .next t ∧
      ((s.line l).ie = true →
        t = { s with
          trace := if (s.line l).handler = 0 then s.trace
            else s.trace ++ [.invoke (match l with | .ext0 => .ext0 | .ext1 => .ext1) 0 (s.line l).handler 0]
          answers := s.answers ++ [{ op := some .evExt, status := .ok, res := 0 }] }) ∧
      ((s.line l).ie = false →
        t.line l = { (s.line l) with latched := s.cfg.extLatch || (s.line l).latched } ∧
        (∀ l', l' ≠ l → t.line l' = s.line l') ∧
        t = { s with
          ext := t.ext
          answers := s.answers ++ [{ op := some .evExt, status := .notEnabled, res := 0 }] })

/-- §8 of the source as 95_test_vectors.md S9 quotes it: binding a line to a handler, then to null, then an edge on it
invokes neither that handler nor any other. -/
def Obligations.UnboundLineInvokesNothing : Prop :=
  ∀ (s : State) (l : Line) (h : Word),
    ∃ t u, exec (.extBind l h) s = .next t ∧ execAll [.extBind l 0, .evExt l] t = .next u ∧ u.trace = t.trace ∧
      u.answers = t.answers ++ [{ op := some .extBind, status := .ok, res := 0 },
                                { op := some .evExt, status := .notEnabled, res := 0 }]

/-! ## Event Scheduler -/

/-- R207: the due test compares `(now - last) mod 2^W_MS`, taken in the integers, with the interval.
The difference modulo `2^W_MS` is the spec's own decision D23. -/
def Obligations.DueTestIsModularElapsedTime : Prop :=
  ∀ (p : Config) (now : Word) (e : Event), p.valid →
    (e.due p now = true ↔
      (e.interval.toNat : Int) ≤ ((now.toNat : Int) - (e.last.toNat : Int)) % (2 : Int) ^ p.wMs)

/-- R202, R203: refused during a walk; the three rejections in their order; otherwise the identifier is the first
candidate from `next_id` on that is not live, the record goes to the end of the list with `last = ms`, and the
identifier is answered. Order of rejections, place in the list, `last` and the choice of identifier are the spec's own
decisions D21, D22, D24, D25. -/
def Obligations.RegisterAppendsFreshEvent : Prop :=
  (∀ interval cb, encode (.evtRegister interval cb) = 0#32 ++ cb ++ interval ++ 0#24 ++ 0x60#8) ∧
  ∀ (s : State) (interval cb : Word), s.cfg.valid → s.ctx = .foreground →
    s.sched.nextId.toNat < 2 ^ s.cfg.wId → s.sched.events.length ≤ 20 →
    (s.sched.walk ≠ .idle → exec (.evtRegister interval cb) s = .refused .walkUnderWay) ∧
    (s.sched.walk = .idle → s.sched.events.length = 20 →
      exec (.evtRegister interval cb) s = .next { s with
        answers := s.answers ++ [{ op := some .evtRegister, status := .capacityExceeded, res := 0 }] }) ∧
    (s.sched.walk = .idle → s.sched.events.length < 20 → (interval = 0 ∨ cb.extractLsb' 0 31 = 0) →
      exec (.evtRegister interval cb) s = .next { s with
        answers := s.answers ++ [{ op := some .evtRegister, status := .rejectedArg, res := 0 }] }) ∧
    (s.sched.walk = .idle → s.sched.events.length < 20 → interval ≠ 0 → cb.extractLsb' 0 31 ≠ 0 →
      ∃ (id next : Word) (k : Nat),
        id.toNat = (s.sched.nextId.toNat + k) % 2 ^ s.cfg.wId ∧
        (∀ e ∈ s.sched.events, e.id ≠ id) ∧
        (∀ j, j < k → ∃ e ∈ s.sched.events, e.id.toNat = (s.sched.nextId.toNat + j) % 2 ^ s.cfg.wId) ∧
        next.toNat = (id.toNat + 1) % 2 ^ s.cfg.wId ∧
        exec (.evtRegister interval cb) s = .next { s with
          sched := { s.sched with
            events := s.sched.events ++ [{ id := id, interval := interval, last := s.tick.ms, cb := cb }]
            nextId := next }
          answers := s.answers ++ [{ op := some .evtRegister, status := .ok, res := id }] })

/-- R204, at any time, a walk included: the first record with the identifier gets the interval and, unless the
descriptor is absent, the callback; an unknown identifier or a zero interval is `NOT_FOUND` and changes nothing. That
`last`, `id` and the place in the list stay is marked by the spec as derived. -/
def Obligations.ModifyUpdatesTheRecord : Prop :=
  (∀ id interval cb, encode (.evtModify id interval cb) = cb ++ interval ++ id ++ 0#24 ++ 0x61#8) ∧
  ∀ (s : State) (id interval cb : Word), s.ctx = .foreground →
    ((∀ x ∈ s.sched.events, x.id ≠ id) ∨ interval = 0 →
      exec (.evtModify id interval cb) s = .next { s with
        answers := s.answers ++ [{ op := some .evtModify, status := .notFound, res := 0 }] }) ∧
    (∀ (before after : List Event) (e : Event), s.sched.events = before ++ e :: after →
      (∀ x ∈ before, x.id ≠ id) → e.id = id → interval ≠ 0 →
      exec (.evtModify id interval cb) s = .next { s with
        sched := { s.sched with
          events := before ++ { e with interval := interval,
                                       cb := if cb.extractLsb' 0 31 = 0 then e.cb else cb } :: after }
        answers := s.answers ++ [{ op := some .evtModify, status := .ok, res := 0 }] })

/-- R205: refused during a walk; otherwise the first record with the identifier leaves the list, the others keep their
order; an unknown identifier is `NOT_FOUND` and changes nothing.
The refusal during a walk is the spec's own decision D26. -/
def Obligations.UnregisterRemovesTheRecord : Prop :=
  (∀ id, encode (.evtUnregister id) = 0#32 ++ 0#32 ++ id ++ 0#24 ++ 0x62#8) ∧
  ∀ (s : State) (id : Word), s.ctx = .foreground →
    (s.sched.walk ≠ .idle → exec (.evtUnregister id) s = .refused .walkUnderWay) ∧
    (s.sched.walk = .idle → (∀ x ∈ s.sched.events, x.id ≠ id) →
      exec (.evtUnregister id) s = .next { s with
        answers := s.answers ++ [{ op := some .evtUnregister, status := .notFound, res := 0 }] }) ∧
    (∀ (before after : List Event) (e : Event), s.sched.walk = .idle → s.sched.events = before ++ e :: after →
      (∀ x ∈ before, x.id ≠ id) → e.id = id →
      exec (.evtUnregister id) s = .next { s with
        sched := { s.sched with events := before ++ after }
        answers := s.answers ++ [{ op := some .evtUnregister, status := .ok, res := 0 }] })

/-- R206, R209, R212: refused during a walk; a refresh at the value of `ms` the previous one read does nothing;
otherwise that value is noted, and the first due record's callback is invoked and waited for, or, with none due, the
pass ends. The order of the walk and `prev_ms` are the spec's own decisions D21, D27. -/
def Obligations.RefreshInvokesFirstDueEvent : Prop :=
  encode .evtRefresh = 0#32 ++ 0#32 ++ 0#32 ++ 0#24 ++ 0x63#8 ∧
  ∀ s : State, s.ctx = .foreground →
    (s.sched.walk ≠ .idle → exec .evtRefresh s = .refused .walkUnderWay) ∧
    (s.sched.walk = .idle → s.tick.ms = s.sched.prevMs →
      exec .evtRefresh s = .next { s with
        answers := s.answers ++ [{ op := some .evtRefresh, status := .ok, res := 0 }] }) ∧
    (s.sched.walk = .idle → s.tick.ms ≠ s.sched.prevMs →
      (∀ x ∈ s.sched.events, x.due s.cfg s.tick.ms = false) →
      exec .evtRefresh s = .next { s with
        sched := { s.sched with prevMs := s.tick.ms }
        answers := s.answers ++ [{ op := some .evtRefresh, status := .ok, res := 0 }] }) ∧
    (∀ (before after : List Event) (e : Event), s.sched.walk = .idle → s.tick.ms ≠ s.sched.prevMs →
      s.sched.events = before ++ e :: after → (∀ x ∈ before, x.due s.cfg s.tick.ms = false) →
      e.due s.cfg s.tick.ms = true →
      exec .evtRefresh s = .next { s with
        sched := { s.sched with prevMs := s.tick.ms, walk := .waitCb s.tick.ms before.length }
        trace := s.trace ++
          [.invoke .sched (e.cb.extractLsb' 31 1) ((e.cb.extractLsb' 0 31).setWidth 32) e.id] })

/-- R213: refused with no callback outstanding; the return of a callback stamps its record with the walk's sample, and
the pass goes on behind it, up to the next due record's callback or to the end, where the suspended refresh is
answered as well. The walk's suspension is the spec's own decision D26; the order of the two answers is the model's
choice, log 7.
The order of the walk is the spec's own decision D21. -/
def Obligations.CallbackDoneStampsAndGoesOn : Prop :=
  encode .evtCbDone = 0#32 ++ 0#32 ++ 0#32 ++ 0#24 ++ 0x64#8 ∧
  (∀ s : State, s.ctx = .foreground → (∀ now pos, s.sched.walk ≠ .waitCb now pos) →
    exec .evtCbDone s = .refused .noCallback) ∧
  ∀ (s : State) (now : Word) (before after : List Event) (e : Event), s.ctx = .foreground →
    s.sched.walk = .waitCb now before.length → s.sched.events = before ++ e :: after →
    ((∀ x ∈ after, x.due s.cfg now = false) →
      exec .evtCbDone s = .next { s with
        sched := { s.sched with events := before ++ { e with last := now } :: after, walk := .idle }
        answers := s.answers ++ [{ op := some .evtRefresh, status := .ok, res := 0 },
                                 { op := some .evtCbDone, status := .ok, res := 0 }] }) ∧
    (∀ (skipped later : List Event) (d : Event), after = skipped ++ d :: later →
      (∀ x ∈ skipped, x.due s.cfg now = false) → d.due s.cfg now = true →
      exec .evtCbDone s = .next { s with
        sched := { s.sched with
          events := before ++ { e with last := now } :: after
          walk := .waitCb now (before.length + 1 + skipped.length) }
        trace := s.trace ++
          [.invoke .sched (d.cb.extractLsb' 31 1) ((d.cb.extractLsb' 0 31).setWidth 32) d.id]
        answers := s.answers ++ [{ op := some .evtCbDone, status := .ok, res := 0 }] })

/-- R206 to R213, R211: one refresh, with each callback returning at once, invokes every due event exactly once, in list
order, stamps exactly those with the sample, and ends the pass.
The list order is the spec's own decision D21 (log 18), the suspended walk D26, `prev_ms` D27. -/
def Obligations.RefreshFiresEachDueEventOnce : Prop :=
  ∀ s : State, s.ctx = .foreground → s.sched.walk = .idle → s.tick.ms ≠ s.sched.prevMs →
    ∃ t, execAll (.evtRefresh ::
        List.replicate (s.sched.events.filter (fun e => e.due s.cfg s.tick.ms)).length .evtCbDone) s = .next t ∧
      t.trace = s.trace ++ (s.sched.events.filter (fun e => e.due s.cfg s.tick.ms)).map
        (fun e => .invoke .sched (e.cb.extractLsb' 31 1) ((e.cb.extractLsb' 0 31).setWidth 32) e.id) ∧
      t.sched = { s.sched with
        events := s.sched.events.map (fun e => if e.due s.cfg s.tick.ms then { e with last := s.tick.ms } else e)
        prevMs := s.tick.ms }

/-- R216: an event registered with interval `I` at tick `T`, `n` ticks later with `n ≥ I` and one refresh, is fired
exactly once however often `I` goes into `n`; a second refresh at the same tick does nothing. The spec marks R216 as
derived from those rules.
The identifier allocated (R203), `last` at registration, the modular elapsed time, the suspended walk and `prev_ms` are
the spec's own decisions D24 (log 18), D22, D23, D26, D27. -/
def Obligations.LateRefreshFiresOnce : Prop :=
  ∀ (s : State) (interval cb : Word) (n : Nat), s.cfg.valid → s.ctx = .foreground → s.sched.walk = .idle →
    s.sched.events = [] → s.sched.nextId.toNat < 2 ^ s.cfg.wId → s.tick.ms.toNat < 2 ^ s.cfg.wMs →
    interval ≠ 0 → cb.extractLsb' 0 31 ≠ 0 → interval.toNat ≤ n → n < 2 ^ s.cfg.wMs →
    (s.tick.ms.toNat + n) % 2 ^ s.cfg.wMs ≠ s.sched.prevMs.toNat →
    ∃ (t : State) (now : Word), now.toNat = (s.tick.ms.toNat + n) % 2 ^ s.cfg.wMs ∧
      execAll ([.evtRegister interval cb] ++ List.replicate n .evTick ++ [.evtRefresh, .evtCbDone, .evtRefresh]) s =
        .next t ∧
      t.trace = s.trace ++
        [.invoke .sched (cb.extractLsb' 31 1) ((cb.extractLsb' 0 31).setWidth 32) s.sched.nextId] ∧
      t.sched.events = [{ id := s.sched.nextId, interval := interval, last := now, cb := cb }] ∧
      t.sched.walk = .idle

/-- R214: while a pass is under way the three operations that reshape the list or restart the pass are refused; every
instruction of the other five units, and `EVT_MODIFY`, does what it does outside one; and the callback may return.
Which are refused is the spec's own decision D26. -/
def Obligations.OperationsDuringWalk : Prop :=
  ∀ s : State, s.ctx = .foreground → s.sched.walk ≠ .idle →
    (∀ interval cb, exec (.evtRegister interval cb) s = .refused .walkUnderWay) ∧
    (∀ id, exec (.evtUnregister id) s = .refused .walkUnderWay) ∧
    exec .evtRefresh s = .refused .walkUnderWay ∧
    (∀ i : Instr, i.opcode.unit ≠ .scheduler →
      exec i s = mapNext (fun t => { t with sched := s.sched })
        (exec i { s with sched := { s.sched with walk := .idle } })) ∧
    (∀ id interval cb, exec (.evtModify id interval cb) s =
      mapNext (fun t => { t with sched := { t.sched with walk := s.sched.walk } })
        (exec (.evtModify id interval cb) { s with sched := { s.sched with walk := .idle } })) ∧
    ∀ now pos, s.sched.walk = .waitCb now pos → pos < s.sched.events.length → ∃ t, exec .evtCbDone s = .next t

/-- R3, R214: the operations and events of the other five units neither read nor write the scheduler's state, so each
runs during a pass as it does outside one. -/
def Obligations.OtherUnitsIgnoreTheScheduler : Prop :=
  ∀ (i : Instr) (s : State) (x : Scheduler), i.opcode.unit ≠ .scheduler →
    exec i { s with sched := x } = mapNext (fun t => { t with sched := x }) (exec i s) ∧
    ∀ t, exec i s = .next t → t.sched = s.sched

/-! ## Rules of the whole machine -/

/-- R245 (a), (b): from interrupt context every scheduler operation is refused; so are the transmit-side serial
operations during a foreground `SER_SEND_STR`, and `NV_WRITE` during a foreground `NV_READ`. Which operations fall
under (b) is the model's reading, log 5.
The refusals are the spec's own decision D32. -/
def Obligations.InterruptContextRefusals : Prop :=
  ∀ (s : State) (a b c p : Word) (i : Nat) (byte : Byte), s.ctx = .interrupt →
    (exec (.evtRegister a b) s = .refused .schedulerFromInterrupt ∧
      exec (.evtModify a b c) s = .refused .schedulerFromInterrupt ∧
      exec (.evtUnregister a) s = .refused .schedulerFromInterrupt ∧
      exec .evtRefresh s = .refused .schedulerFromInterrupt ∧
      exec .evtCbDone s = .refused .schedulerFromInterrupt) ∧
    (s.fgJob = some (.sendStr p) →
      exec (.serPushTx byte) s = .refused .unitOwnedByForeground ∧
      exec (.serSendStr a) s = .refused .unitOwnedByForeground ∧
      exec .serPopTx s = .refused .unitOwnedByForeground) ∧
    (s.fgJob = some (.nvRead a b c i) → ∀ x y z : Word,
      exec (.nvWrite x y z) s = .refused .unitOwnedByForeground)

/-- R230: a host operation that answers a status other than `OK` changes no state and emits nothing. -/
def Obligations.RejectedOperationChangesNothing : Prop :=
  ∀ (i : Instr) (s t : State) (a : Answer), i.isEvent = false → exec i s = .next t →
    t.answers = s.answers ++ [a] → a.status ≠ .ok → t = { s with answers := s.answers ++ [a] }

/-- R231: the operations that never answer anything but `OK`. Each of them answers in its own step, but for
`SER_SEND_STR` and `EVT_REFRESH`, which answer in it exactly when they end in it (R12). A later step of a byte-wise
composite operation answers nothing but `OK` too, and answers exactly when it ends the operation. -/
def Obligations.OperationsThatNeverReject : Prop :=
  (∀ (i : Instr) (s t : State),
    i.opcode ∈ [Opcode.nowMs, .nowS, .adcStart, .adcRead, .adcPower, .nvBusy, .serConfig, .serPushTx, .serSendStr,
      .extBind, .evtRefresh, .evtCbDone] →
    exec i s = .next t →
    ∃ new : List Answer, t.answers = s.answers ++ new ∧ (∀ a ∈ new, a.status = .ok) ∧
      (i.opcode ≠ .serSendStr → i.opcode ≠ .evtRefresh → new ≠ []) ∧
      (i.opcode = .serSendStr → (new ≠ [] ↔ t.job s.ctx = none)) ∧
      (i.opcode = .evtRefresh → (new ≠ [] ↔ t.sched.walk = .idle))) ∧
  ∀ (ctx : Context) (j : Transfer) (s t : State), transferStep ctx j s = .next t →
    ∃ new : List Answer, t.answers = s.answers ++ new ∧ (∀ a ∈ new, a.status = .ok) ∧
      (new ≠ [] ↔ t.job ctx = none)

/-- R238: the handlers of two different units commute: in either order they leave the same state, the same answers and
the same trace up to order. -/
def Obligations.HandlersOfUnitsCommute : Prop :=
  ∀ (i j : Instr) (s t : State), i.isEvent = true → j.isEvent = true → i.opcode.unit ≠ j.opcode.unit →
    execAll [i, j] s = .next t →
    ∃ u, execAll [j, i] s = .next u ∧ u.withoutOutputs = t.withoutOutputs ∧
      List.Perm u.answers t.answers ∧ List.Perm u.trace t.trace

/-- R23, R25: who may write the counters and the sampler's variables, over every instruction and over the later steps of
the composite operations. -/
def Obligations.WritersOfTickAndSampler : Prop :=
  (∀ (i : Instr) (s t : State), exec i s = .next t →
    (i.opcode ≠ .evTick → t.tick = s.tick) ∧
    (i.opcode ≠ .evAdcDone → t.adc.channels = s.adc.channels) ∧
    (i.opcode ≠ .evAdcDone → i.opcode ≠ .adcStart → t.adc.ch = s.adc.ch) ∧
    (i.opcode ≠ .adcPower → t.adc.on = s.adc.on) ∧
    (i.opcode ≠ .adcStart → i.opcode ≠ .adcPower → t.adc.inflight = s.adc.inflight)) ∧
  ∀ (ctx : Context) (j : Transfer) (s t : State), transferStep ctx j s = .next t → t.tick = s.tick ∧ t.adc = s.adc

/-- R28, R30: who may write the job variables, the store and the serial variables, over every instruction and over the
later steps of the composite operations; and R61: only `NV_READ` writes host memory. -/
def Obligations.WritersOfStoreAndSerial : Prop :=
  (∀ (i : Instr) (s t : State), exec i s = .next t →
    (i.opcode ≠ .nvWrite → i.opcode ≠ .evNvReady → t.nv = s.nv) ∧
    (i.opcode ≠ .evNvReady → t.nv.store = s.nv.store) ∧
    (i.opcode ≠ .serPushTx → i.opcode ≠ .serSendStr →
      t.ser.tx.buf = s.ser.tx.buf ∧ t.ser.tx.inp = s.ser.tx.inp) ∧
    (i.opcode ≠ .serPushTx → i.opcode ≠ .serSendStr → i.opcode ≠ .serPopTx → i.opcode ≠ .evSerTxc →
      t.ser.tx.out = s.ser.tx.out) ∧
    (i.opcode ≠ .serPushTx → i.opcode ≠ .serSendStr → i.opcode ≠ .evSerTxc → t.ser.txBusy = s.ser.txBusy) ∧
    (i.opcode ≠ .evSerRx → t.ser.rx.buf = s.ser.rx.buf ∧ t.ser.rx.inp = s.ser.rx.inp) ∧
    (i.opcode ≠ .serPopRx → t.ser.rx.out = s.ser.rx.out) ∧
    (i.opcode ≠ .serConfig → t.ser.on = s.ser.on) ∧
    (i.opcode ≠ .nvRead → t.mem = s.mem)) ∧
  ∀ (ctx : Context) (j : Transfer) (s t : State), transferStep ctx j s = .next t →
    t.nv = s.nv ∧ t.ser.rx = s.ser.rx ∧ t.ser.on = s.ser.on ∧
    ((∃ p, j = .sendStr p) → t.mem = s.mem) ∧ ((∃ a b c i, j = .nvRead a b c i) → t.ser = s.ser)

/-- R32, R35: who may write the bindings and the scheduler's variables, over every instruction and over the later
steps of the composite operations. -/
def Obligations.WritersOfLinesAndScheduler : Prop :=
  (∀ (i : Instr) (s t : State), exec i s = .next t →
    (i.opcode ≠ .extBind → ∀ l, (t.line l).handler = (s.line l).handler ∧ (t.line l).ie = (s.line l).ie) ∧
    (i.opcode ≠ .extBind → i.opcode ≠ .evExt → t.ext = s.ext) ∧
    (i.opcode ∉ [Opcode.evtRegister, .evtModify, .evtUnregister, .evtRefresh, .evtCbDone] → t.sched = s.sched)) ∧
  ∀ (ctx : Context) (j : Transfer) (s t : State), transferStep ctx j s = .next t →
    t.ext = s.ext ∧ t.sched = s.sched

/-! ## Pseudo-operations -/

/-- R93: the pseudo-operations have the effect of their expansions. From every state, `DRAIN_TX` is `EV_SER_TXC`
repeated up to and including its first answer of `NOT_ENABLED`, after which the link sends nothing more; so is
`DRAIN_NV` for `EV_NV_READY`, from every state that satisfies the invariant, after which no job is under way. The
pseudo-operations are the spec's own decision D30. -/
def Obligations.PseudoOperationsRunTheirExpansions : Prop :=
  (∀ (s : State) (n : Nat), runPseudo (.ticks n) s = execAll (List.replicate n .evTick) s) ∧
  (∀ (s : State) (bytes : List Byte), runPseudo (.rx bytes) s = execAll (bytes.map .evSerRx) s) ∧
  (∀ (s : State) (l : Line), runPseudo (.extUnbind l) s = exec (.extBind l 0) s) ∧
  (∀ (s : State) (id n : Word), runPseudo (.evtSetInterval id n) s = exec (.evtModify id n 0) s) ∧
  (∀ s : State, ∃ (k : Nat) (t : State),
    runPseudo .drainTx s = .next t ∧ execAll (List.replicate (k + 1) .evSerTxc) s = .next t ∧
    t.answers = s.answers ++ List.replicate k { op := some .evSerTxc, status := .ok, res := 0 } ++
      [{ op := some .evSerTxc, status := .notEnabled, res := 0 }] ∧
    (t.ser.on && t.ser.txBusy) = false) ∧
  ∀ s : State, Inv s → ∃ (k : Nat) (t : State),
    runPseudo .drainNv s = .next t ∧ execAll (List.replicate (k + 1) .evNvReady) s = .next t ∧
    t.answers = s.answers ++ List.replicate k { op := some .evNvReady, status := .ok, res := 0 } ++
      [{ op := some .evNvReady, status := .notEnabled, res := 0 }] ∧
    t.nv.busy = false
end

