-- ==== Sys2Proof/Laws/Decode.lean ====
section
/-! SUPPORT. The fields of a frame built from its parts, and the opcode map (spec/30_encoding.md R81, R84, R85). -/

namespace Sys2Proof

@[simp] theorem opcodeByte_frameOf (op : Opcode) (a b c : Word) : opcodeByte (frameOf op a b c) = op.code := by
  apply BitVec.eq_of_getLsbD_eq
  intro i hi
  simp only [opcodeByte, frameOf, BitVec.getLsbD_extractLsb', BitVec.getLsbD_append]
  simp [hi]

@[simp] theorem reservedField_frameOf (op : Opcode) (a b c : Word) : reservedField (frameOf op a b c) = 0 := by
  apply BitVec.eq_of_getLsbD_eq
  intro i hi
  simp only [reservedField, frameOf, BitVec.getLsbD_extractLsb', BitVec.getLsbD_append]
  have h1 : ¬ (8 + i < 8) := by omega
  simp only [h1, if_false, Nat.add_sub_cancel_left, hi]
  simp

@[simp] theorem wordA_frameOf (op : Opcode) (a b c : Word) : wordA (frameOf op a b c) = a := by
  apply BitVec.eq_of_getLsbD_eq
  intro i hi
  simp only [wordA, frameOf, BitVec.getLsbD_extractLsb', BitVec.getLsbD_append]
  have h1 : ¬ (32 + i < 8) := by omega
  have h2 : ¬ (32 + i - 8 < 24) := by omega
  have h3 : 32 + i - 8 - 24 = i := by omega
  simp [h1, h2, h3, hi]

@[simp] theorem wordB_frameOf (op : Opcode) (a b c : Word) : wordB (frameOf op a b c) = b := by
  apply BitVec.eq_of_getLsbD_eq
  intro i hi
  simp only [wordB, frameOf, BitVec.getLsbD_extractLsb', BitVec.getLsbD_append]
  have h1 : ¬ (64 + i < 8) := by omega
  have h2 : ¬ (64 + i - 8 < 24) := by omega
  have h3 : ¬ (64 + i - 8 - 24 < 32) := by omega
  have h4 : 64 + i - 8 - 24 - 32 = i := by omega
  simp [h1, h2, h3, h4, hi]

@[simp] theorem wordC_frameOf (op : Opcode) (a b c : Word) : wordC (frameOf op a b c) = c := by
  apply BitVec.eq_of_getLsbD_eq
  intro i hi
  simp only [wordC, frameOf, BitVec.getLsbD_extractLsb', BitVec.getLsbD_append]
  have h1 : ¬ (96 + i < 8) := by omega
  have h2 : ¬ (96 + i - 8 < 24) := by omega
  have h3 : ¬ (96 + i - 8 - 24 < 32) := by omega
  have h4 : ¬ (96 + i - 8 - 24 - 32 < 32) := by omega
  have h5 : 96 + i - 8 - 24 - 32 - 32 = i := by omega
  simp [h1, h2, h3, h4, h5, hi]

/-- A frame is its five fields (R81). -/
theorem frame_fields (F : Frame) : F = wordC F ++ wordB F ++ wordA F ++ reservedField F ++ opcodeByte F := by
  apply BitVec.eq_of_getLsbD_eq
  intro i hi
  simp only [BitVec.getLsbD_append, opcodeByte, reservedField, wordA, wordB, wordC, BitVec.getLsbD_extractLsb']
  by_cases h1 : i < 8
  · simp [h1]
  · by_cases h2 : i - 8 < 24
    · have e : 8 + (i - 8) = i := by omega
      simp [h1, h2, e]
    · by_cases h3 : i - 8 - 24 < 32
      · have e : 32 + (i - 8 - 24) = i := by omega
        simp [h1, h2, h3, e]
      · by_cases h4 : i - 8 - 24 - 32 < 32
        · have e : 64 + (i - 8 - 24 - 32) = i := by omega
          simp [h1, h2, h3, h4, e]
        · have h5 : i - 8 - 24 - 32 - 32 < 32 := by omega
          have e : 96 + (i - 8 - 24 - 32 - 32) = i := by omega
          simp [h1, h2, h3, h4, h5, e]

/-- The opcode values are distinct and all listed: reading an opcode's byte gives it back (R84, R85). -/
@[simp] theorem ofCode_code (op : Opcode) : Opcode.ofCode op.code = some op := by cases op <;> decide

/-- A byte that is an opcode is that opcode's. -/
theorem code_of_ofCode {b : Byte} {op : Opcode} (h : Opcode.ofCode b = some op) : op.code = b := by
  simpa using List.find?_some h

/-- What `decode` can answer with an instruction (R86). -/
theorem decode_ok {p : Config} {F : Frame} {i : Instr} (h : decode p F = .ok i) :
    ∃ op : Opcode, reservedField F = 0 ∧ op.code = opcodeByte F ∧
      unusedWordsZero op.format (wordA F) (wordB F) (wordC F) = true ∧
      op.build (wordA F) (wordB F) (wordC F) = some i ∧ i.wf p = true := by
  unfold decode at h
  split at h
  · cases h
  · rename_i hr
    split at h
    · cases h
    · rename_i op hop
      split at h
      · rename_i hu
        split at h
        · cases h
        · rename_i j hb
          split at h
          · rename_i hw
            cases h
            exact ⟨op, by simpa using hr, code_of_ofCode hop, hu, hb, hw⟩
          · cases h
      · cases h

end Sys2Proof
end

