-- ==== Sys2Proof/Laws/Memory.lean ====
section
/-! SUPPORT. The laws of a byte memory (spec/20_memory.md R61, R62): a read after a write, and the canonical form. -/

namespace Sys2Proof.Machine

@[simp] theorem Memory.read_nil (a : Nat) : Memory.read [] a = Memory.unlisted := rfl

theorem Memory.wf_nil : Memory.wf [] := by simp [Memory.wf]

theorem Memory.wf_tail {cell : Host.Cell} {m : Memory} (h : Memory.wf (cell :: m)) : Memory.wf m :=
  ⟨(List.pairwise_cons.mp h.1).2, fun c hc => h.2 c (List.mem_cons_of_mem _ hc)⟩

/-- An address below every listed one is unlisted. -/
theorem Memory.read_of_lt {m : Memory} {a : Nat} (h : ∀ cell ∈ m, a < cell.1) : m.read a = Memory.unlisted := by
  induction m with
  | nil => rfl
  | cons cell m ih =>
    obtain ⟨k, v⟩ := cell
    have hk : a < k := h (k, v) List.mem_cons_self
    have hne : k ≠ a := by omega
    simp only [Memory.read, if_neg hne]
    exact ih (fun c hc => h c (List.mem_cons_of_mem _ hc))

/-- A write leaves every other address alone. -/
theorem Memory.read_write_other (m : Memory) {a a' : Nat} (b : Byte) (h : a' ≠ a) :
    (m.write a b).read a' = m.read a' := by
  induction m with
  | nil =>
    simp only [Memory.write]
    split
    · rfl
    · simp [Memory.read, Ne.symm h]
  | cons cell m ih =>
    obtain ⟨k, v⟩ := cell
    simp only [Memory.write]
    split
    · split
      · rfl
      · simp [Memory.read, Ne.symm h]
    · split
      · rename_i hak
        subst hak
        split <;> simp [Memory.read, Ne.symm h]
      · simp only [Memory.read, ih]

/-- A read of the address just written gives the byte written. -/
theorem Memory.read_write_same {m : Memory} (hm : m.wf) (a : Nat) (b : Byte) : (m.write a b).read a = b := by
  induction m with
  | nil =>
    simp only [Memory.write]
    split
    · rename_i hb; simp [hb]
    · simp [Memory.read]
  | cons cell m ih =>
    obtain ⟨k, v⟩ := cell
    have hlt : ∀ c ∈ m, k < c.1 := fun c hc => (List.pairwise_cons.mp hm.1).1 c hc
    simp only [Memory.write]
    split
    · rename_i hak
      split
      · rename_i hb
        rw [hb]
        refine Memory.read_of_lt (fun c hc => ?_)
        rcases List.mem_cons.mp hc with rfl | hc
        · exact hak
        · exact Nat.lt_trans hak (hlt c hc)
      · simp [Memory.read]
    · split
      · rename_i hak
        subst hak
        split
        · rename_i hb; rw [hb]; exact Memory.read_of_lt hlt
        · simp [Memory.read]
      · rename_i hak
        simp only [Memory.read, if_neg (Ne.symm hak)]
        exact ih (Memory.wf_tail hm)

/-- The byte an address reads as after a write. -/
theorem Memory.read_write {m : Memory} (hm : m.wf) (a a' : Nat) (b : Byte) :
    (m.write a b).read a' = if a' = a then b else m.read a' := by
  by_cases h : a' = a
  · subst h; simp [Memory.read_write_same hm]
  · simp [h, Memory.read_write_other m b h]

/-- A write lists no address but the one written and those listed before. -/
theorem Memory.mem_write {m : Memory} {a : Nat} {b : Byte} {cell : Host.Cell} (h : cell ∈ m.write a b) :
    cell = (a, b) ∧ b ≠ Memory.unlisted ∨ cell ∈ m := by
  induction m with
  | nil =>
    simp only [Memory.write] at h
    split at h
    · simp at h
    · exact .inl ⟨by simpa using h, by assumption⟩
  | cons head m ih =>
    obtain ⟨k, v⟩ := head
    simp only [Memory.write] at h
    split at h
    · split at h
      · exact .inr h
      · rcases List.mem_cons.mp h with rfl | h
        · exact .inl ⟨rfl, by assumption⟩
        · exact .inr h
    · split at h
      · split at h
        · exact .inr (List.mem_cons_of_mem _ h)
        · rcases List.mem_cons.mp h with rfl | h
          · exact .inl ⟨rfl, by assumption⟩
          · exact .inr (List.mem_cons_of_mem _ h)
      · rcases List.mem_cons.mp h with rfl | h
        · exact .inr List.mem_cons_self
        · rcases ih h with h | h
          · exact .inl h
          · exact .inr (List.mem_cons_of_mem _ h)

/-- A write keeps the canonical form. -/
theorem Memory.wf_write {m : Memory} (hm : m.wf) (a : Nat) (b : Byte) : (m.write a b).wf := by
  refine ⟨?_, fun c hc => ?_⟩
  · induction m with
    | nil => simp only [Memory.write]; split <;> simp
    | cons head m ih =>
      obtain ⟨k, v⟩ := head
      obtain ⟨hlt, hrest⟩ := List.pairwise_cons.mp hm.1
      simp only [Memory.write]
      split
      · rename_i hak
        split
        · exact hm.1
        · refine List.pairwise_cons.mpr ⟨fun c hc => ?_, hm.1⟩
          rcases List.mem_cons.mp hc with rfl | hc
          · exact hak
          · exact Nat.lt_trans hak (hlt c hc)
      · split
        · rename_i hak
          subst hak
          split
          · exact hrest
          · exact List.pairwise_cons.mpr ⟨hlt, hrest⟩
        · rename_i h1 h2
          refine List.pairwise_cons.mpr ⟨fun c hc => ?_, ih (Memory.wf_tail hm)⟩
          rcases Memory.mem_write hc with ⟨rfl, -⟩ | hc
          · show k < a; omega
          · exact hlt c hc
  · rcases Memory.mem_write hc with ⟨rfl, hb⟩ | hc
    · exact hb
    · exact hm.2 c hc

/-- A write below a bound keeps every address below it. -/
theorem Memory.bounded_write {m : Memory} {n a : Nat} {b : Byte} (hm : ∀ cell ∈ m, cell.1 < n) (ha : a < n) :
    ∀ cell ∈ m.write a b, cell.1 < n := by
  intro c hc
  rcases Memory.mem_write hc with ⟨rfl, -⟩ | hc
  · exact ha
  · exact hm c hc

/-- `MemWrite` keeps host memory canonical. -/
theorem memWrite_wf {s : State} (h : s.mem.wf) (addr : Word) (v : Byte) : (memWrite s addr v).mem.wf :=
  Memory.wf_write h _ _

/-- `NvWrite` keeps the store canonical. -/
theorem nvWriteByte_wf {s : State} (h : s.nv.store.wf) (addr : Nat) (v : Byte) :
    (nvWriteByte s addr v).nv.store.wf :=
  Memory.wf_write h _ _

/-- The store stays canonical across a hardware reset. -/
theorem storeAfterReset_wf {nv : NvWriter} (h : nv.store.wf) (n : Nat) : (storeAfterReset nv n).wf := by
  unfold storeAfterReset
  split
  · exact Memory.wf_write h _ _
  · exact h

/-- Reset memory is canonical. -/
theorem reset_memories_wf : State.reset.mem.wf ∧ State.reset.nv.store.wf := ⟨Memory.wf_nil, Memory.wf_nil⟩

end Sys2Proof.Machine
end

