-- ==== Sys2Proof/Laws/State.lean ====
section
/-! SUPPORT. What each named update of State does to each field: one lemma per field per update. -/

namespace Sys2Proof.Machine

variable (s : State)

/-! ### memWrite -/

@[simp] theorem memWrite_cfg (addr : Word) (v : Byte) : (memWrite s addr v).cfg = s.cfg := rfl
@[simp] theorem memWrite_tick (addr : Word) (v : Byte) : (memWrite s addr v).tick = s.tick := rfl
@[simp] theorem memWrite_adc (addr : Word) (v : Byte) : (memWrite s addr v).adc = s.adc := rfl
@[simp] theorem memWrite_nv (addr : Word) (v : Byte) : (memWrite s addr v).nv = s.nv := rfl
@[simp] theorem memWrite_ser (addr : Word) (v : Byte) : (memWrite s addr v).ser = s.ser := rfl
@[simp] theorem memWrite_ext (addr : Word) (v : Byte) : (memWrite s addr v).ext = s.ext := rfl
@[simp] theorem memWrite_sched (addr : Word) (v : Byte) : (memWrite s addr v).sched = s.sched := rfl
@[simp] theorem memWrite_mem (addr : Word) (v : Byte) : (memWrite s addr v).mem = s.mem.write addr.toNat v := rfl
@[simp] theorem memWrite_trace (addr : Word) (v : Byte) : (memWrite s addr v).trace = s.trace := rfl
@[simp] theorem memWrite_answers (addr : Word) (v : Byte) : (memWrite s addr v).answers = s.answers := rfl
@[simp] theorem memWrite_ctx (addr : Word) (v : Byte) : (memWrite s addr v).ctx = s.ctx := rfl
@[simp] theorem memWrite_fgJob (addr : Word) (v : Byte) : (memWrite s addr v).fgJob = s.fgJob := rfl
@[simp] theorem memWrite_irqJob (addr : Word) (v : Byte) : (memWrite s addr v).irqJob = s.irqJob := rfl
@[simp] theorem memWrite_inbox (addr : Word) (v : Byte) : (memWrite s addr v).inbox = s.inbox := rfl
@[simp] theorem memWrite_draws (addr : Word) (v : Byte) : (memWrite s addr v).draws = s.draws := rfl

/-! ### emit -/

@[simp] theorem emit_cfg (e : TraceEvent) : (s.emit e).cfg = s.cfg := rfl
@[simp] theorem emit_tick (e : TraceEvent) : (s.emit e).tick = s.tick := rfl
@[simp] theorem emit_adc (e : TraceEvent) : (s.emit e).adc = s.adc := rfl
@[simp] theorem emit_nv (e : TraceEvent) : (s.emit e).nv = s.nv := rfl
@[simp] theorem emit_ser (e : TraceEvent) : (s.emit e).ser = s.ser := rfl
@[simp] theorem emit_ext (e : TraceEvent) : (s.emit e).ext = s.ext := rfl
@[simp] theorem emit_sched (e : TraceEvent) : (s.emit e).sched = s.sched := rfl
@[simp] theorem emit_mem (e : TraceEvent) : (s.emit e).mem = s.mem := rfl
@[simp] theorem emit_trace (e : TraceEvent) : (s.emit e).trace = s.trace ++ [e] := rfl
@[simp] theorem emit_answers (e : TraceEvent) : (s.emit e).answers = s.answers := rfl
@[simp] theorem emit_ctx (e : TraceEvent) : (s.emit e).ctx = s.ctx := rfl
@[simp] theorem emit_fgJob (e : TraceEvent) : (s.emit e).fgJob = s.fgJob := rfl
@[simp] theorem emit_irqJob (e : TraceEvent) : (s.emit e).irqJob = s.irqJob := rfl
@[simp] theorem emit_inbox (e : TraceEvent) : (s.emit e).inbox = s.inbox := rfl
@[simp] theorem emit_draws (e : TraceEvent) : (s.emit e).draws = s.draws := rfl

/-! ### reply -/

@[simp] theorem reply_cfg (op : Opcode) (st : Status) (res : Word) : (s.reply op st res).cfg = s.cfg := rfl
@[simp] theorem reply_tick (op : Opcode) (st : Status) (res : Word) : (s.reply op st res).tick = s.tick := rfl
@[simp] theorem reply_adc (op : Opcode) (st : Status) (res : Word) : (s.reply op st res).adc = s.adc := rfl
@[simp] theorem reply_nv (op : Opcode) (st : Status) (res : Word) : (s.reply op st res).nv = s.nv := rfl
@[simp] theorem reply_ser (op : Opcode) (st : Status) (res : Word) : (s.reply op st res).ser = s.ser := rfl
@[simp] theorem reply_ext (op : Opcode) (st : Status) (res : Word) : (s.reply op st res).ext = s.ext := rfl
@[simp] theorem reply_sched (op : Opcode) (st : Status) (res : Word) : (s.reply op st res).sched = s.sched := rfl
@[simp] theorem reply_mem (op : Opcode) (st : Status) (res : Word) : (s.reply op st res).mem = s.mem := rfl
@[simp] theorem reply_trace (op : Opcode) (st : Status) (res : Word) : (s.reply op st res).trace = s.trace := rfl
@[simp] theorem reply_answers (op : Opcode) (st : Status) (res : Word) : (s.reply op st res).answers = s.answers ++ [{ op := some op, status := st, res := res }] := rfl
@[simp] theorem reply_ctx (op : Opcode) (st : Status) (res : Word) : (s.reply op st res).ctx = s.ctx := rfl
@[simp] theorem reply_fgJob (op : Opcode) (st : Status) (res : Word) : (s.reply op st res).fgJob = s.fgJob := rfl
@[simp] theorem reply_irqJob (op : Opcode) (st : Status) (res : Word) : (s.reply op st res).irqJob = s.irqJob := rfl
@[simp] theorem reply_inbox (op : Opcode) (st : Status) (res : Word) : (s.reply op st res).inbox = s.inbox := rfl
@[simp] theorem reply_draws (op : Opcode) (st : Status) (res : Word) : (s.reply op st res).draws = s.draws := rfl

/-! ### nvWriteByte -/

@[simp] theorem nvWriteByte_cfg (addr : Nat) (v : Byte) : (nvWriteByte s addr v).cfg = s.cfg := rfl
@[simp] theorem nvWriteByte_tick (addr : Nat) (v : Byte) : (nvWriteByte s addr v).tick = s.tick := rfl
@[simp] theorem nvWriteByte_adc (addr : Nat) (v : Byte) : (nvWriteByte s addr v).adc = s.adc := rfl
@[simp] theorem nvWriteByte_nv (addr : Nat) (v : Byte) : (nvWriteByte s addr v).nv = { s.nv with store := s.nv.store.write addr v } := rfl
@[simp] theorem nvWriteByte_ser (addr : Nat) (v : Byte) : (nvWriteByte s addr v).ser = s.ser := rfl
@[simp] theorem nvWriteByte_ext (addr : Nat) (v : Byte) : (nvWriteByte s addr v).ext = s.ext := rfl
@[simp] theorem nvWriteByte_sched (addr : Nat) (v : Byte) : (nvWriteByte s addr v).sched = s.sched := rfl
@[simp] theorem nvWriteByte_mem (addr : Nat) (v : Byte) : (nvWriteByte s addr v).mem = s.mem := rfl
@[simp] theorem nvWriteByte_trace (addr : Nat) (v : Byte) : (nvWriteByte s addr v).trace = s.trace ++ [.nvWrite addr v] := rfl
@[simp] theorem nvWriteByte_answers (addr : Nat) (v : Byte) : (nvWriteByte s addr v).answers = s.answers := rfl
@[simp] theorem nvWriteByte_ctx (addr : Nat) (v : Byte) : (nvWriteByte s addr v).ctx = s.ctx := rfl
@[simp] theorem nvWriteByte_fgJob (addr : Nat) (v : Byte) : (nvWriteByte s addr v).fgJob = s.fgJob := rfl
@[simp] theorem nvWriteByte_irqJob (addr : Nat) (v : Byte) : (nvWriteByte s addr v).irqJob = s.irqJob := rfl
@[simp] theorem nvWriteByte_inbox (addr : Nat) (v : Byte) : (nvWriteByte s addr v).inbox = s.inbox := rfl
@[simp] theorem nvWriteByte_draws (addr : Nat) (v : Byte) : (nvWriteByte s addr v).draws = s.draws := rfl

/-! ### setLine -/

@[simp] theorem setLine_cfg (l : Line) (b : Binding) : (s.setLine l b).cfg = s.cfg := by cases l <;> rfl
@[simp] theorem setLine_tick (l : Line) (b : Binding) : (s.setLine l b).tick = s.tick := by cases l <;> rfl
@[simp] theorem setLine_adc (l : Line) (b : Binding) : (s.setLine l b).adc = s.adc := by cases l <;> rfl
@[simp] theorem setLine_nv (l : Line) (b : Binding) : (s.setLine l b).nv = s.nv := by cases l <;> rfl
@[simp] theorem setLine_ser (l : Line) (b : Binding) : (s.setLine l b).ser = s.ser := by cases l <;> rfl
@[simp] theorem setLine_sched (l : Line) (b : Binding) : (s.setLine l b).sched = s.sched := by cases l <;> rfl
@[simp] theorem setLine_mem (l : Line) (b : Binding) : (s.setLine l b).mem = s.mem := by cases l <;> rfl
@[simp] theorem setLine_trace (l : Line) (b : Binding) : (s.setLine l b).trace = s.trace := by cases l <;> rfl
@[simp] theorem setLine_answers (l : Line) (b : Binding) : (s.setLine l b).answers = s.answers := by cases l <;> rfl
@[simp] theorem setLine_ctx (l : Line) (b : Binding) : (s.setLine l b).ctx = s.ctx := by cases l <;> rfl
@[simp] theorem setLine_fgJob (l : Line) (b : Binding) : (s.setLine l b).fgJob = s.fgJob := by cases l <;> rfl
@[simp] theorem setLine_irqJob (l : Line) (b : Binding) : (s.setLine l b).irqJob = s.irqJob := by cases l <;> rfl
@[simp] theorem setLine_inbox (l : Line) (b : Binding) : (s.setLine l b).inbox = s.inbox := by cases l <;> rfl
@[simp] theorem setLine_draws (l : Line) (b : Binding) : (s.setLine l b).draws = s.draws := by cases l <;> rfl

/-! ### invokeLine -/

@[simp] theorem invokeLine_cfg (l : Line) (h : Word) : (s.invokeLine l h).cfg = s.cfg := rfl
@[simp] theorem invokeLine_tick (l : Line) (h : Word) : (s.invokeLine l h).tick = s.tick := rfl
@[simp] theorem invokeLine_adc (l : Line) (h : Word) : (s.invokeLine l h).adc = s.adc := rfl
@[simp] theorem invokeLine_nv (l : Line) (h : Word) : (s.invokeLine l h).nv = s.nv := rfl
@[simp] theorem invokeLine_ser (l : Line) (h : Word) : (s.invokeLine l h).ser = s.ser := rfl
@[simp] theorem invokeLine_ext (l : Line) (h : Word) : (s.invokeLine l h).ext = s.ext := rfl
@[simp] theorem invokeLine_sched (l : Line) (h : Word) : (s.invokeLine l h).sched = s.sched := rfl
@[simp] theorem invokeLine_mem (l : Line) (h : Word) : (s.invokeLine l h).mem = s.mem := rfl
@[simp] theorem invokeLine_trace (l : Line) (h : Word) : (s.invokeLine l h).trace = s.trace ++ [.invoke (lineSite l) 0 h 0] := rfl
@[simp] theorem invokeLine_answers (l : Line) (h : Word) : (s.invokeLine l h).answers = s.answers := rfl
@[simp] theorem invokeLine_ctx (l : Line) (h : Word) : (s.invokeLine l h).ctx = s.ctx := rfl
@[simp] theorem invokeLine_fgJob (l : Line) (h : Word) : (s.invokeLine l h).fgJob = s.fgJob := rfl
@[simp] theorem invokeLine_irqJob (l : Line) (h : Word) : (s.invokeLine l h).irqJob = s.irqJob := rfl
@[simp] theorem invokeLine_inbox (l : Line) (h : Word) : (s.invokeLine l h).inbox = s.inbox := rfl
@[simp] theorem invokeLine_draws (l : Line) (h : Word) : (s.invokeLine l h).draws = s.draws := rfl

/-! ### setWalk -/

@[simp] theorem setWalk_cfg (w : Walk) : (s.setWalk w).cfg = s.cfg := rfl
@[simp] theorem setWalk_tick (w : Walk) : (s.setWalk w).tick = s.tick := rfl
@[simp] theorem setWalk_adc (w : Walk) : (s.setWalk w).adc = s.adc := rfl
@[simp] theorem setWalk_nv (w : Walk) : (s.setWalk w).nv = s.nv := rfl
@[simp] theorem setWalk_ser (w : Walk) : (s.setWalk w).ser = s.ser := rfl
@[simp] theorem setWalk_ext (w : Walk) : (s.setWalk w).ext = s.ext := rfl
@[simp] theorem setWalk_sched (w : Walk) : (s.setWalk w).sched = { s.sched with walk := w } := rfl
@[simp] theorem setWalk_mem (w : Walk) : (s.setWalk w).mem = s.mem := rfl
@[simp] theorem setWalk_trace (w : Walk) : (s.setWalk w).trace = s.trace := rfl
@[simp] theorem setWalk_answers (w : Walk) : (s.setWalk w).answers = s.answers := rfl
@[simp] theorem setWalk_ctx (w : Walk) : (s.setWalk w).ctx = s.ctx := rfl
@[simp] theorem setWalk_fgJob (w : Walk) : (s.setWalk w).fgJob = s.fgJob := rfl
@[simp] theorem setWalk_irqJob (w : Walk) : (s.setWalk w).irqJob = s.irqJob := rfl
@[simp] theorem setWalk_inbox (w : Walk) : (s.setWalk w).inbox = s.inbox := rfl
@[simp] theorem setWalk_draws (w : Walk) : (s.setWalk w).draws = s.draws := rfl

/-! ### invokeCallback -/

@[simp] theorem invokeCallback_cfg (e : Event) : (s.invokeCallback e).cfg = s.cfg := rfl
@[simp] theorem invokeCallback_tick (e : Event) : (s.invokeCallback e).tick = s.tick := rfl
@[simp] theorem invokeCallback_adc (e : Event) : (s.invokeCallback e).adc = s.adc := rfl
@[simp] theorem invokeCallback_nv (e : Event) : (s.invokeCallback e).nv = s.nv := rfl
@[simp] theorem invokeCallback_ser (e : Event) : (s.invokeCallback e).ser = s.ser := rfl
@[simp] theorem invokeCallback_ext (e : Event) : (s.invokeCallback e).ext = s.ext := rfl
@[simp] theorem invokeCallback_sched (e : Event) : (s.invokeCallback e).sched = s.sched := rfl
@[simp] theorem invokeCallback_mem (e : Event) : (s.invokeCallback e).mem = s.mem := rfl
@[simp] theorem invokeCallback_trace (e : Event) : (s.invokeCallback e).trace = s.trace ++ [.invoke .sched (cbKind e.cb) (cbRef e.cb) e.id] := rfl
@[simp] theorem invokeCallback_answers (e : Event) : (s.invokeCallback e).answers = s.answers := rfl
@[simp] theorem invokeCallback_ctx (e : Event) : (s.invokeCallback e).ctx = s.ctx := rfl
@[simp] theorem invokeCallback_fgJob (e : Event) : (s.invokeCallback e).fgJob = s.fgJob := rfl
@[simp] theorem invokeCallback_irqJob (e : Event) : (s.invokeCallback e).irqJob = s.irqJob := rfl
@[simp] theorem invokeCallback_inbox (e : Event) : (s.invokeCallback e).inbox = s.inbox := rfl
@[simp] theorem invokeCallback_draws (e : Event) : (s.invokeCallback e).draws = s.draws := rfl

/-! ### setJob -/

@[simp] theorem setJob_cfg (c : Context) (j : Option Transfer) : (s.setJob c j).cfg = s.cfg := by cases c <;> rfl
@[simp] theorem setJob_tick (c : Context) (j : Option Transfer) : (s.setJob c j).tick = s.tick := by cases c <;> rfl
@[simp] theorem setJob_adc (c : Context) (j : Option Transfer) : (s.setJob c j).adc = s.adc := by cases c <;> rfl
@[simp] theorem setJob_nv (c : Context) (j : Option Transfer) : (s.setJob c j).nv = s.nv := by cases c <;> rfl
@[simp] theorem setJob_ser (c : Context) (j : Option Transfer) : (s.setJob c j).ser = s.ser := by cases c <;> rfl
@[simp] theorem setJob_ext (c : Context) (j : Option Transfer) : (s.setJob c j).ext = s.ext := by cases c <;> rfl
@[simp] theorem setJob_sched (c : Context) (j : Option Transfer) : (s.setJob c j).sched = s.sched := by cases c <;> rfl
@[simp] theorem setJob_mem (c : Context) (j : Option Transfer) : (s.setJob c j).mem = s.mem := by cases c <;> rfl
@[simp] theorem setJob_trace (c : Context) (j : Option Transfer) : (s.setJob c j).trace = s.trace := by cases c <;> rfl
@[simp] theorem setJob_answers (c : Context) (j : Option Transfer) : (s.setJob c j).answers = s.answers := by cases c <;> rfl
@[simp] theorem setJob_ctx (c : Context) (j : Option Transfer) : (s.setJob c j).ctx = s.ctx := by cases c <;> rfl
@[simp] theorem setJob_inbox (c : Context) (j : Option Transfer) : (s.setJob c j).inbox = s.inbox := by cases c <;> rfl
@[simp] theorem setJob_draws (c : Context) (j : Option Transfer) : (s.setJob c j).draws = s.draws := by cases c <;> rfl

/-! ### setJob and setLine by slot -/

@[simp] theorem setJob_foreground_fgJob (j : Option Transfer) : (s.setJob .foreground j).fgJob = j := rfl
@[simp] theorem setJob_foreground_irqJob (j : Option Transfer) : (s.setJob .foreground j).irqJob = s.irqJob := rfl
@[simp] theorem setJob_interrupt_fgJob (j : Option Transfer) : (s.setJob .interrupt j).fgJob = s.fgJob := rfl
@[simp] theorem setJob_interrupt_irqJob (j : Option Transfer) : (s.setJob .interrupt j).irqJob = j := rfl
@[simp] theorem setJob_job (c : Context) (j : Option Transfer) : (s.setJob c j).job c = j := by cases c <;> rfl

@[simp] theorem setLine_line (l : Line) (b : Binding) : (s.setLine l b).line l = b := by cases l <;> rfl

/-- The two lines are independent (spec/44_extsignal.md R192). -/
theorem setLine_line_other {l l' : Line} (b : Binding) (h : l' ≠ l) : (s.setLine l b).line l' = s.line l' := by
  cases l <;> cases l' <;> first | rfl | exact absurd rfl h

/-! ### Outcomes -/

/-- `done` always answers a next state: the operation's own, with its result pair. -/
@[simp] theorem done_eq (op : Opcode) (v : Word) : done op v s = .next (s.reply op .ok v) := rfl

/-- `raise` always answers a next state: the state before, with the rejection. -/
@[simp] theorem raise_eq (op : Opcode) (st : Status) : raise op st s = .next (s.reply op st st.failRes) := rfl

@[simp] theorem failRes_empty : Status.empty.failRes = 0xFFFFFFFF#32 := rfl

/-- Every rejection but `EMPTY` carries 0 (spec/30_encoding.md R88). -/
theorem failRes_zero {st : Status} (h : st ≠ .empty) : st.failRes = 0 := by
  cases st <;> first | rfl | exact absurd rfl h

/-- The states of the two outcomes differ only in the result pairs. -/
theorem reply_eq (op : Opcode) (st : Status) (res : Word) :
    s.reply op st res = { s with answers := s.answers ++ [{ op := some op, status := st, res := res }] } := rfl

end Sys2Proof.Machine
end

