-- ==== Sys2Proof/Laws/Ops.lean ====
section
/-! SUPPORT. What each shared operation can do, said once: arithmetic modulo a width, the queues, the scheduler's search
and walk, the steps of the composite operations, and runs of several instructions or steps. -/

namespace Sys2Proof.Machine

/-! ### Arithmetic modulo a width -/

/-- `wrap` is the remainder (R10). -/
theorem toNat_wrap {w n : Nat} (h : w ≤ 32) : (wrap w n).toNat = n % 2 ^ w := by
  unfold wrap
  rw [BitVec.toNat_ofNat]
  have h1 : n % 2 ^ w < 2 ^ w := Nat.mod_lt _ (by positivity)
  have h2 : 2 ^ w ≤ 2 ^ 32 := Nat.pow_le_pow_right (by omega) h
  exact Nat.mod_eq_of_lt (by omega)

/-- `wrap` stays below its modulus. -/
theorem wrap_lt {w n : Nat} (h : w ≤ 32) : (wrap w n).toNat < 2 ^ w := by
  rw [toNat_wrap h]; exact Nat.mod_lt _ (by positivity)

/-- A host address wraps past `2^W_ADDR - 1` (R61). -/
theorem toNat_hostAddr {p : Config} (hv : p.valid) (a : Word) (n : Nat) :
    (hostAddr p a n).toNat = (a.toNat + n) % 2 ^ p.wAddr := toNat_wrap hv.2.2.2.2.2.2.2

/-- A word other than 0 is at least 1. -/
theorem toNat_pos_of_ne {w : Word} (h : w ≠ 0) : 0 < w.toNat := by
  rcases Nat.eq_zero_or_pos w.toNat with h0 | h0
  · exact absurd (BitVec.eq_of_toNat_eq (by simpa using h0)) h
  · exact h0

/-! ### Queues -/

/-- `q_pop` answers "empty" exactly when the indices meet (R160). -/
theorem pop_cases (q : Queue) :
    (q.inp = q.out ∧ q.pop = none) ∨
    (q.inp ≠ q.out ∧ q.pop = some (q.buf[q.out.toNat]'q.out.isLt, { q with out := q.out + 1 })) := by
  unfold Queue.pop
  split
  · exact .inl ⟨by assumption, rfl⟩
  · exact .inr ⟨by assumption, rfl⟩

/-- A byte pushed on an empty queue is the one the next pop returns. -/
theorem push_pop {q : Queue} (h : q.inp = q.out) (b : Byte) :
    (q.push b).pop = some (b, { q.push b with out := q.out + 1 }) := by
  unfold Queue.pop Queue.push
  have : q.inp + 1 ≠ q.out := by
    rw [h]; intro hx
    have := congrArg BitVec.toNat hx
    simp [BitVec.toNat_add] at this
    omega
  simp only [this, if_false]
  simp [h]

/-- `q_push` in the terms of the statements. -/
theorem push_isPush (q : Queue) (b : Byte) : q.IsPush b (q.push b) := by
  refine ⟨fun k hk => ?_, ?_, rfl⟩
  · simp [Queue.push, Vector.getElem_set, eq_comm]
  · simp [Queue.push, BitVec.toNat_add]

/-- `q_pop` in the terms of the statements. -/
theorem pop_isPop {q q' : Queue} {b : Byte} (h : q.pop = some (b, q')) : q.IsPop b q' := by
  rcases pop_cases q with ⟨_, h2⟩ | ⟨h1, h2⟩ <;> rw [h2] at h <;> cases h
  exact ⟨h1, fun _ => rfl, by simp [BitVec.toNat_add], rfl, rfl⟩

/-- What `SER_PUSH_TX` without its answer can do (R162). -/
theorem pushTx_next {b : Byte} {s t : State} (h : pushTx b s = .next t) :
    s.ser.on = true ∧
    ((s.ser.txBusy = true ∧ t = { s with ser := { s.ser with tx := s.ser.tx.push b } }) ∨
     (s.ser.txBusy = false ∧ ∃ c q, (s.ser.tx.push b).pop = some (c, q) ∧
       t = { s with ser := { s.ser with tx := q, txBusy := true }, trace := s.trace ++ [.txByte c] })) := by
  unfold pushTx at h
  split at h
  · cases h
  · rename_i hon
    refine ⟨by simpa using hon, ?_⟩
    simp only at h
    split at h
    · rename_i hb; cases h; exact .inl ⟨hb, rfl⟩
    · rename_i hb
      split at h
      · cases h
      · rename_i c q hp; cases h; exact .inr ⟨by simpa using hb, c, q, hp, rfl⟩

/-- With the transmitter busy the byte is queued. -/
theorem pushTx_busy {b : Byte} {s : State} (hon : s.ser.on = true) (hb : s.ser.txBusy = true) :
    pushTx b s = .next { s with ser := { s.ser with tx := s.ser.tx.push b } } := by
  simp [pushTx, hon, hb]

/-- With the transmitter idle and its queue empty the byte goes out. -/
theorem pushTx_idle {b : Byte} {s : State} (hon : s.ser.on = true) (hb : s.ser.txBusy = false)
    (he : s.ser.tx.inp = s.ser.tx.out) :
    pushTx b s = .next { s with
      ser := { s.ser with tx := { s.ser.tx.push b with out := s.ser.tx.out + 1 }, txBusy := true }
      trace := s.trace ++ [.txByte b] } := by
  simp [pushTx, hon, hb, push_pop he, State.emit]

/-- An unconfigured link refuses (R162). -/
theorem pushTx_off {b : Byte} {s : State} (hon : s.ser.on = false) : pushTx b s = .refused .linkNotConfigured := by
  simp [pushTx, hon]

/-- Nothing else stops it where R171 holds. -/
theorem pushTx_no_fault {b : Byte} {s : State} (hs : s.ser.Inv) (r : Fault) : pushTx b s ≠ .fault r := by
  cases hon : s.ser.on
  · rw [pushTx_off hon]; simp
  · cases hb : s.ser.txBusy
    · rw [pushTx_idle hon hb (hs.1 hb)]; simp
    · rw [pushTx_busy hon hb]; simp

/-! ### Scheduler -/

/-- The search finds the first due record (R212). -/
theorem firstDue_some {p : Config} {now : Word} : ∀ {es : List Event} {pos k : Nat} {e : Event},
    firstDue p now es pos = some (k, e) →
    ∃ before after, es = before ++ e :: after ∧ k = pos + before.length ∧
      (∀ x ∈ before, x.due p now = false) ∧ e.due p now = true := by
  intro es
  induction es with
  | nil => intro pos k e h; cases h
  | cons x es ih =>
    intro pos k e h
    unfold firstDue at h
    split at h
    · rename_i hd
      cases h
      exact ⟨[], es, rfl, rfl, by simp, hd⟩
    · rename_i hd
      obtain ⟨before, after, rfl, rfl, h3, h4⟩ := ih h
      exact ⟨x :: before, after, rfl, by simp; omega, by simpa [hd] using h3, h4⟩

/-- The search finds nothing exactly when nothing is due. -/
theorem firstDue_none {p : Config} {now : Word} : ∀ {es : List Event} {pos : Nat},
    firstDue p now es pos = none ↔ ∀ x ∈ es, x.due p now = false := by
  intro es
  induction es with
  | nil => intro pos; simp [firstDue]
  | cons x es ih =>
    intro pos
    unfold firstDue
    split
    · rename_i hd; simp [hd]
    · rename_i hd; simp [ih, hd]

/-- The search passes over records that are not due. -/
theorem firstDue_skip {p : Config} {now : Word} {e : Event} (he : e.due p now = true) (after : List Event) :
    ∀ {before : List Event} {pos : Nat}, (∀ x ∈ before, x.due p now = false) →
    firstDue p now (before ++ e :: after) pos = some (pos + before.length, e) := by
  intro before
  induction before with
  | nil => intro pos _; simp [firstDue, he]
  | cons x before ih =>
    intro pos hb
    have hx : x.due p now = false := hb x List.mem_cons_self
    simp only [List.cons_append, firstDue, hx, Bool.false_eq_true, if_false, List.length_cons]
    rw [ih (fun y hy => hb y (List.mem_cons_of_mem _ hy))]
    congr 2; omega

/-- `advance()` where nothing is due from `pos` on: the walk ends (R212). -/
theorem advance_none {now : Word} {pos : Nat} {s : State}
    (h : ∀ x ∈ s.sched.events.drop pos, x.due s.cfg now = false) :
    advance now pos s = (s.setWalk .idle).reply .evtRefresh .ok 0 := by
  unfold advance; rw [firstDue_none.mpr h]

/-- `advance()` up to the next due record: its callback is invoked (R212). -/
theorem advance_some {now : Word} {pos : Nat} {s : State} {before after : List Event} {e : Event}
    (hl : s.sched.events.drop pos = before ++ e :: after) (hb : ∀ x ∈ before, x.due s.cfg now = false)
    (he : e.due s.cfg now = true) :
    advance now pos s = (s.invokeCallback e).setWalk (.waitCb now (pos + before.length)) := by
  unfold advance; rw [hl, firstDue_skip he after hb]

/-- The scan of `alloc_id` (R203): every candidate before the one it stops at is live. -/
theorem scanId_spec {p : Config} (hv : p.wId ≤ 32) {es : List Event} : ∀ (fuel : Nat) (cand : Word),
    cand.toNat < 2 ^ p.wId →
    ∃ k, k ≤ fuel ∧ (scanId p es fuel cand).toNat = (cand.toNat + k) % 2 ^ p.wId ∧
      (∀ j, j < k → ∃ e ∈ es, e.id.toNat = (cand.toNat + j) % 2 ^ p.wId) ∧
      (k < fuel → ∀ e ∈ es, e.id ≠ scanId p es fuel cand) := by
  intro fuel
  induction fuel with
  | zero => intro cand hc; exact ⟨0, le_refl _, by simp [scanId, Nat.mod_eq_of_lt hc], by simp, by simp⟩
  | succ n ih =>
    intro cand hc
    unfold scanId
    split
    · rename_i hl
      obtain ⟨k, k1, k2, k3, k4⟩ := ih (wrap p.wId (cand.toNat + 1)) (wrap_lt hv)
      rw [toNat_wrap hv] at k2 k3
      refine ⟨k + 1, by omega, ?_, ?_, fun h => k4 (by omega)⟩
      · rw [k2, Nat.mod_add_mod]; congr 1; omega
      · intro j hj
        rcases j with _ | j
        · simp [idLive] at hl
          obtain ⟨e, he, rfl⟩ := hl
          exact ⟨e, he, by simp [Nat.mod_eq_of_lt hc]⟩
        · obtain ⟨e, he, h⟩ := k3 j (by omega)
          refine ⟨e, he, ?_⟩
          rw [h, Nat.mod_add_mod]; congr 1; omega
    · rename_i hl
      refine ⟨0, by omega, by simp [Nat.mod_eq_of_lt hc], by simp, fun _ e he heq => ?_⟩
      simp [idLive] at hl
      exact hl e he heq

/-- `alloc_id()` (R203) with at most 20 live records stops at an identifier that is not live: there are at least 32
(`W_ID ≥ 5`). -/
theorem allocId_spec {p : Config} (hv : p.valid) {es : List Event} (hl : es.length ≤ 20) {n : Word}
    (hn : n.toNat < 2 ^ p.wId) :
    ∃ k, (allocId p es n).toNat = (n.toNat + k) % 2 ^ p.wId ∧
      (∀ j, j < k → ∃ e ∈ es, e.id.toNat = (n.toNat + j) % 2 ^ p.wId) ∧ ∀ e ∈ es, e.id ≠ allocId p es n := by
  have h5 := hv.2.2.2.2.2.1
  obtain ⟨k, k1, k2, k3, k4⟩ := scanId_spec (es := es) h5.2 (es.length + 1) n hn
  refine ⟨k, k2, k3, k4 ?_⟩
  by_contra hk
  have hk : k = es.length + 1 := by omega
  have hp : 2 ^ 5 ≤ 2 ^ p.wId := Nat.pow_le_pow_right (by omega) h5.1
  have hsub : (Finset.range k).image (fun j => (n.toNat + j) % 2 ^ p.wId) ⊆
      (es.map (fun e => e.id.toNat)).toFinset := by
    intro x hx
    simp only [Finset.mem_image, Finset.mem_range] at hx
    obtain ⟨j, hj, rfl⟩ := hx
    obtain ⟨e, he, h⟩ := k3 j hj
    simp only [List.mem_toFinset, List.mem_map]
    exact ⟨e, he, h⟩
  have hcard := Finset.card_le_card hsub
  rw [Finset.card_image_of_injOn, Finset.card_range] at hcard
  · have := List.toFinset_card_le (es.map (fun e => e.id.toNat))
    simp at this; omega
  · intro a ha b hb hab
    simp only [Finset.coe_range, Set.mem_Iio] at ha hb
    have h2 : a ≡ b [MOD 2 ^ p.wId] := Nat.ModEq.add_left_cancel' _ (by exact hab)
    exact Nat.ModEq.eq_of_lt_of_lt h2 (by omega) (by omega)

/-- What holds of every record holds after one is changed, if the change keeps it. -/
theorem forall_modify {α : Type} {P : α → Prop} {l : List α} {k : Nat} {f : α → α} (h : ∀ x ∈ l, P x)
    (hf : ∀ x, P x → P (f x)) : ∀ x ∈ l.modify k f, P x := by
  intro x hx
  obtain ⟨n, hn⟩ := List.mem_iff_getElem?.mp hx
  rw [List.getElem?_modify] at hn
  cases hy : l[n]? with
  | none => simp [hy] at hn
  | some y =>
    have := h y (List.mem_of_getElem? hy)
    simp [hy] at hn
    split at hn
    · rw [← hn]; exact hf _ this
    · rw [← hn]; exact this

/-- A column of the records that a change leaves alone. -/
theorem map_modify {α β : Type} {g : α → β} {l : List α} {k : Nat} {f : α → α} (hf : ∀ x, g (f x) = g x) :
    (l.modify k f).map g = l.map g := by
  apply List.ext_getElem?
  intro n
  simp only [List.getElem?_map, List.getElem?_modify]
  cases l[n]? <;> simp
  split <;> simp [hf]

/-- Changing the record at a list's split point. -/
theorem modify_split {α : Type} (before after : List α) (e : α) (f : α → α) :
    (before ++ e :: after).modify before.length f = before ++ f e :: after := by
  induction before with
  | nil => rfl
  | cons x before ih => simp [ih]

/-! ### Composite operations -/

/-- What one byte step of `NV_READ` can do (R143). -/
theorem nvReadStep_next {ctx : Context} {a b c : Word} {i : Nat} {s t : State}
    (h : nvReadStep ctx a b c i s = .next t) :
    a.toNat + i < s.cfg.nvSize ∧
    ((i + 1 < c.toNat ∧ t = State.setJob { s with
        mem := s.mem.write (hostAddr s.cfg b i).toNat (s.nv.store.read (a.toNat + i))
        trace := s.trace ++ [.nvRead (a.toNat + i)] } ctx (some (.nvRead a b c (i + 1)))) ∨
     (c.toNat ≤ i + 1 ∧ t = (State.setJob { s with
        mem := s.mem.write (hostAddr s.cfg b i).toNat (s.nv.store.read (a.toNat + i))
        trace := s.trace ++ [.nvRead (a.toNat + i)] } ctx none).reply .nvRead .ok 0)) := by
  unfold nvReadStep at h
  simp only at h
  split at h
  · cases h
  · rename_i hlt
    refine ⟨by omega, ?_⟩
    split at h
    · cases h; exact .inl ⟨by assumption, rfl⟩
    · cases h; exact .inr ⟨by omega, rfl⟩

/-- What one iteration of `SER_SEND_STR` can do (R164). -/
theorem sendStrStep_next {ctx : Context} {p : Word} {s t : State} (h : sendStrStep ctx p s = .next t) :
    (memRead s p = 0 ∧ t = (s.setJob ctx none).reply .serSendStr .ok 0) ∨
    (memRead s p ≠ 0 ∧ ∃ u, pushTx (memRead s p) s = .next u ∧
      t = u.setJob ctx (some (.sendStr (hostAddr s.cfg p 1)))) := by
  unfold sendStrStep at h
  simp only at h
  split at h
  · cases h; exact .inl ⟨by assumption, rfl⟩
  · refine .inr ⟨by assumption, ?_⟩
    split at h
    · rename_i u hu; cases h; exact ⟨u, hu, rfl⟩
    · cases h
    · cases h

/-- The terminating zero ends the text. -/
theorem sendStrStep_zero {ctx : Context} {p : Word} {s : State} (h : memRead s p = 0) :
    sendStrStep ctx p s = .next ((s.setJob ctx none).reply .serSendStr .ok 0) := by
  unfold sendStrStep; simp only; rw [if_pos h]; rfl

/-- Any other byte is pushed and the pointer moves on. -/
theorem sendStrStep_push {ctx : Context} {p : Word} {s u : State} (h : memRead s p ≠ 0)
    (hu : pushTx (memRead s p) s = .next u) :
    sendStrStep ctx p s = .next (u.setJob ctx (some (.sendStr (hostAddr s.cfg p 1)))) := by
  unfold sendStrStep; simp only; rw [if_neg h, hu]

/-- Which composite operation goes on (R70, R240). -/
theorem goOn_next {s t : State} (h : goOn s = .next t) :
    (∃ j, s.irqJob = some j ∧ transferStep .interrupt j s = .next t) ∨
    (∃ j, s.irqJob = none ∧ s.fgJob = some j ∧ transferStep .foreground j s = .next t) ∨
    (s.irqJob = none ∧ s.fgJob = none ∧ t = s) := by
  unfold goOn at h
  split at h
  · rename_i j hj; exact .inl ⟨j, hj, h⟩
  · rename_i j hi hj; exact .inr (.inl ⟨j, hi, hj, h⟩)
  · rename_i hi hj; cases h; exact .inr (.inr ⟨hi, hj, rfl⟩)

/-- A composite operation stays legal while the parameters, an idle writer and a configured link do. -/
theorem legal_congr {s t : State} (hc : t.cfg = s.cfg) (hb : t.nv.busy = true → s.nv.busy = true)
    (ho : s.ser.on = true → t.ser.on = true) {j : Transfer} (h : j.legal s = true) : j.legal t = true := by
  cases j <;> simp only [Transfer.legal, hc, Bool.and_eq_true, decide_eq_true_eq, Bool.not_eq_true'] at h ⊢
  · refine ⟨h.1, ?_⟩
    cases hx : t.nv.busy
    · rfl
    · have := hb hx; simp_all
  · exact ⟨h.1, ho h.2⟩

/-! ### Several instructions, several steps -/

theorem execAll_cons {i : Instr} {is : List Instr} {s t : State} (h : exec i s = .next t) :
    execAll (i :: is) s = execAll is t := by simp [execAll, h]

theorem execAll_append {a : List Instr} (b : List Instr) {s t : State} (h : execAll a s = .next t) :
    execAll (a ++ b) s = execAll b t := by
  induction a generalizing s with
  | nil => simp only [execAll, Host.Outcome.next.injEq] at h; subst h; rfl
  | cons i a ih =>
    simp only [execAll, List.cons_append] at h ⊢
    cases hx : exec i s <;> simp only [hx] at h ⊢
    · exact ih h
    · cases h
    · cases h

theorem execAll_snoc {a : List Instr} {i : Instr} {s t u : State} (h : execAll a s = .next t)
    (h2 : exec i t = .next u) : execAll (a ++ [i]) s = .next u := by
  rw [execAll_append _ h]; simp [execAll, h2]

/-- A repeated event that has answered `NOT_ENABLED` is done (R93). -/
theorem execUntil_stop {i : Instr} {fuel : Nat} {s t : State} (h : exec i s = .next t) (hl : lastNotEnabled t = true) :
    execUntilNotEnabled i (fuel + 1) s = .next t := by simp [execUntilNotEnabled, h, hl]

/-- One that has answered anything else goes on. -/
theorem execUntil_go {i : Instr} {fuel : Nat} {s t : State} (h : exec i s = .next t) (hl : lastNotEnabled t = false) :
    execUntilNotEnabled i (fuel + 1) s = execUntilNotEnabled i fuel t := by simp [execUntilNotEnabled, h, hl]

theorem steps_succ {n : Nat} {s t : State} (h : step s = .next t) : steps (n + 1) s = steps n t := by
  simp [steps, h]

theorem steps_snoc {n : Nat} {s t u : State} (h : steps n s = .next t) (h2 : step t = .next u) :
    steps (n + 1) s = .next u := by
  induction n generalizing s with
  | zero => simp only [steps, Host.Outcome.next.injEq] at h; subst h; simp [steps, h2]
  | succ n ih =>
    rw [steps] at h ⊢
    cases hx : step s <;> simp only [hx] at h ⊢
    · exact ih h
    · cases h
    · cases h

/-- With an empty inbox a step is the next step of the composite operation under way. -/
theorem step_idle {s : State} (h : s.inbox = []) : step s = goOn s := by simp [step, takeStep, h]

end Sys2Proof.Machine
end

