-- ==== Sys2Proof/Laws/PerInstr.lean ====
section
/-! SUPPORT. Per-instruction families, one lemma for each constructor of Instr. -/

namespace Sys2Proof.Laws

/-- The operand words of an instruction rebuild it, and the words its format does not use are 0
(spec/30_encoding.md R82, R89). -/
def OperandsRebuild.Statement (i : Instr) : Prop :=
  i.opcode.build i.operandA i.operandB i.operandC = some i ∧
    unusedWordsZero i.opcode.format i.operandA i.operandB i.operandC = true

/-- A byte widened to a word is read back (R94). -/
theorem byteOperand_setWidth (b : Byte) : byteOperand (b.setWidth 32) = some b := by
  have h : (b.setWidth 32).toNat ≤ 255 := by
    have := b.isLt
    simp only [BitVec.toNat_setWidth]
    omega
  have e : (b.setWidth 32).extractLsb' 0 8 = b := by
    apply BitVec.eq_of_getLsbD_eq
    intro i hi
    simp [hi]
    omega
  simp only [byteOperand, if_pos h, e]

theorem OperandsRebuild.nowMs : OperandsRebuild.Statement .nowMs := ⟨rfl, rfl⟩
theorem OperandsRebuild.nowS : OperandsRebuild.Statement .nowS := ⟨rfl, rfl⟩
theorem OperandsRebuild.adcStart : OperandsRebuild.Statement .adcStart := ⟨rfl, rfl⟩
theorem OperandsRebuild.adcRead (x : Word) : OperandsRebuild.Statement (.adcRead x) := ⟨rfl, rfl⟩
theorem OperandsRebuild.adcPower (x : Bool) : OperandsRebuild.Statement (.adcPower x) := by cases x <;> exact ⟨rfl, rfl⟩
theorem OperandsRebuild.nvBusy : OperandsRebuild.Statement .nvBusy := ⟨rfl, rfl⟩
theorem OperandsRebuild.nvWrite (x : Word) (y : Word) (z : Word) : OperandsRebuild.Statement (.nvWrite x y z) := ⟨rfl, rfl⟩
theorem OperandsRebuild.nvRead (x : Word) (y : Word) (z : Word) : OperandsRebuild.Statement (.nvRead x y z) := ⟨rfl, rfl⟩
theorem OperandsRebuild.serConfig : OperandsRebuild.Statement .serConfig := ⟨rfl, rfl⟩
theorem OperandsRebuild.serPushTx (x : Byte) : OperandsRebuild.Statement (.serPushTx x) := by
  refine ⟨?_, rfl⟩
  show (byteOperand (x.setWidth 32)).map Instr.serPushTx = _
  rw [byteOperand_setWidth]; rfl
theorem OperandsRebuild.serPopTx : OperandsRebuild.Statement .serPopTx := ⟨rfl, rfl⟩
theorem OperandsRebuild.serSendStr (x : Word) : OperandsRebuild.Statement (.serSendStr x) := ⟨rfl, rfl⟩
theorem OperandsRebuild.serPopRx : OperandsRebuild.Statement .serPopRx := ⟨rfl, rfl⟩
theorem OperandsRebuild.extBind (x : Line) (y : Word) : OperandsRebuild.Statement (.extBind x y) := by cases x <;> exact ⟨rfl, rfl⟩
theorem OperandsRebuild.evtRegister (x : Word) (y : Word) : OperandsRebuild.Statement (.evtRegister x y) := ⟨rfl, rfl⟩
theorem OperandsRebuild.evtModify (x : Word) (y : Word) (z : Word) : OperandsRebuild.Statement (.evtModify x y z) := ⟨rfl, rfl⟩
theorem OperandsRebuild.evtUnregister (x : Word) : OperandsRebuild.Statement (.evtUnregister x) := ⟨rfl, rfl⟩
theorem OperandsRebuild.evtRefresh : OperandsRebuild.Statement .evtRefresh := ⟨rfl, rfl⟩
theorem OperandsRebuild.evtCbDone : OperandsRebuild.Statement .evtCbDone := ⟨rfl, rfl⟩
theorem OperandsRebuild.evTick : OperandsRebuild.Statement .evTick := ⟨rfl, rfl⟩
theorem OperandsRebuild.evAdcDone (x : Word) : OperandsRebuild.Statement (.evAdcDone x) := ⟨rfl, rfl⟩
theorem OperandsRebuild.evNvReady : OperandsRebuild.Statement .evNvReady := ⟨rfl, rfl⟩
theorem OperandsRebuild.evSerRx (x : Byte) : OperandsRebuild.Statement (.evSerRx x) := by
  refine ⟨?_, rfl⟩
  show (byteOperand (x.setWidth 32)).map Instr.evSerRx = _
  rw [byteOperand_setWidth]; rfl
theorem OperandsRebuild.evSerTxc : OperandsRebuild.Statement .evSerTxc := ⟨rfl, rfl⟩
theorem OperandsRebuild.evExt (x : Line) : OperandsRebuild.Statement (.evExt x) := by cases x <;> exact ⟨rfl, rfl⟩

end Sys2Proof.Laws
end

