-- ==== Sys2Proof/Tests/Slice0.lean ====
section
/-! SUPPORT. Tests: the well-formedness checks, decoding of frames written out from spec/30_encoding.md R81 to R86,
single steps with the expected results of spec/95_test_vectors.md (V1 to V7, P1 to P5), and for each statement with
hypotheses a witness that meets them. -/

namespace Sys2Proof.Tests

open Sys2Proof Sys2Proof.Machine

/-! ## Helpers -/

/-- The outcome is a next state with the property. -/
def isNext (r : Result) (p : State → Bool) : Bool :=
  match r with
  | .next t => p t
  | .fault _ => false
  | .refused _ => false

/-- The outcome is this refusal. -/
def isRefused (r : Result) (x : Refusal) : Bool :=
  match r with
  | .next _ => false
  | .fault _ => false
  | .refused y => y == x

/-- The last answer given has this status and result. -/
def answered (s : State) (st : Status) (res : Word) : Bool :=
  match s.answers.getLast? with
  | some a => a.status == st && a.res == res
  | none => false

/-- A frame from its four words in the order of 95_test_vectors.md: `W0 W1 W2 W3`. -/
def frameW (w0 w1 w2 w3 : Word) : Frame := w3 ++ w2 ++ w1 ++ w0

/-- The decoder, under REFCFG, reads this instruction from the four words. -/
def reads (w0 w1 w2 w3 : Word) (i : Instr) : Bool :=
  match decode Config.ref (frameW w0 w1 w2 w3) with
  | .ok j => j == i
  | .error _ => false

/-- The decoder, under REFCFG, rejects the four words for this reason. -/
def rejects (w0 w1 w2 w3 : Word) (e : Illegal) : Bool :=
  match decode Config.ref (frameW w0 w1 w2 w3) with
  | .ok _ => false
  | .error x => x == e

/-! ## WellFormed: an ill-formed term for each check, beside the last well-formed one -/

theorem test_wf_adcRead : (Instr.adcRead 3).wf Config.ref = false ∧ (Instr.adcRead 2).wf Config.ref = true := by decide
theorem test_wf_nvWrite :
    (Instr.nvWrite 0 0x10000 1).wf Config.ref = false ∧ (Instr.nvWrite 0 0xFFFF 1).wf Config.ref = true := by decide
theorem test_wf_nvRead :
    (Instr.nvRead 0 0x10000 1).wf Config.ref = false ∧ (Instr.nvRead 0 0xFFFF 1).wf Config.ref = true := by decide
theorem test_wf_serSendStr :
    (Instr.serSendStr 0x10000).wf Config.ref = false ∧ (Instr.serSendStr 0xFFFF).wf Config.ref = true := by decide
theorem test_wf_evtRegister :
    (Instr.evtRegister 0x10000 1).wf { Config.ref with wMs := 16 } = false ∧
    (Instr.evtRegister 0xFFFF 1).wf { Config.ref with wMs := 16 } = true := by decide
theorem test_wf_evtModify_id :
    (Instr.evtModify 256 5 0).wf Config.ref = false ∧ (Instr.evtModify 255 5 0).wf Config.ref = true := by decide
theorem test_wf_evtModify_interval :
    (Instr.evtModify 0 0x10000 0).wf { Config.ref with wMs := 16 } = false ∧
    (Instr.evtModify 0 0xFFFF 0).wf { Config.ref with wMs := 16 } = true := by decide
theorem test_wf_evtUnregister :
    (Instr.evtUnregister 256).wf Config.ref = false ∧ (Instr.evtUnregister 255).wf Config.ref = true := by decide
theorem test_wf_evAdcDone :
    (Instr.evAdcDone 1024).wf Config.ref = false ∧ (Instr.evAdcDone 1023).wf Config.ref = true := by decide

/-! ## Decode: every row's frame, written out from R81 and the tables of R84 and R85 -/

theorem test_decode_nowMs : reads 0x00000010 0 0 0 .nowMs := by decide
theorem test_decode_nowS : reads 0x00000011 0 0 0 .nowS := by decide
theorem test_decode_adcStart : reads 0x00000020 0 0 0 .adcStart := by decide
theorem test_decode_adcRead : reads 0x00000021 2 0 0 (.adcRead 2) := by decide
theorem test_decode_adcPower :
    reads 0x00000022 0 0 0 (.adcPower false) ∧ reads 0x00000022 1 0 0 (.adcPower true) := by decide
theorem test_decode_nvBusy : reads 0x00000030 0 0 0 .nvBusy := by decide
theorem test_decode_nvWrite : reads 0x00000031 0x10 0x2000 3 (.nvWrite 0x10 0x2000 3) := by decide
theorem test_decode_nvRead : reads 0x00000032 0x3FF 0xFFFF 1 (.nvRead 0x3FF 0xFFFF 1) := by decide
theorem test_decode_serConfig : reads 0x00000040 0 0 0 .serConfig := by decide
theorem test_decode_serPushTx : reads 0x00000041 0x61 0 0 (.serPushTx 0x61) := by decide
theorem test_decode_serPopTx : reads 0x00000042 0 0 0 .serPopTx := by decide
theorem test_decode_serSendStr : reads 0x00000043 0x2100 0 0 (.serSendStr 0x2100) := by decide
theorem test_decode_serPopRx : reads 0x00000044 0 0 0 .serPopRx := by decide
theorem test_decode_extBind :
    reads 0x00000050 0 0x4000 0 (.extBind .ext0 0x4000) ∧ reads 0x00000050 1 0x4100 0 (.extBind .ext1 0x4100) := by decide
theorem test_decode_evtRegister : reads 0x00000060 0x1E 0x80004300 0 (.evtRegister 30 0x80004300) := by decide
theorem test_decode_evtModify : reads 0x00000061 7 0xFA 0x4400 (.evtModify 7 250 0x4400) := by decide
theorem test_decode_evtUnregister : reads 0x00000062 5 0 0 (.evtUnregister 5) := by decide
theorem test_decode_evtRefresh : reads 0x00000063 0 0 0 .evtRefresh := by decide
theorem test_decode_evtCbDone : reads 0x00000064 0 0 0 .evtCbDone := by decide
theorem test_decode_evTick : reads 0x00000080 0 0 0 .evTick := by decide
theorem test_decode_evAdcDone : reads 0x00000081 0x200 0 0 (.evAdcDone 512) := by decide
theorem test_decode_evNvReady : reads 0x00000082 0 0 0 .evNvReady := by decide
theorem test_decode_evSerRx : reads 0x00000083 0x78 0 0 (.evSerRx 0x78) := by decide
theorem test_decode_evSerTxc : reads 0x00000084 0 0 0 .evSerTxc := by decide
theorem test_decode_evExt : reads 0x00000085 0 0 0 (.evExt .ext0) ∧ reads 0x00000085 1 0 0 (.evExt .ext1) := by decide

/-- V1: reserved bits, unassigned opcodes, unused operand words. -/
theorem test_decode_rejects_form :
    rejects 0x00000000 0 0 0 .unassignedOpcode ∧ rejects 0x00000110 0 0 0 .reservedBits ∧
    rejects 0x80000010 0 0 0 .reservedBits ∧ rejects 0x00000012 0 0 0 .unassignedOpcode ∧
    rejects 0x0000007F 0 0 0 .unassignedOpcode ∧ rejects 0x00000086 0 0 0 .unassignedOpcode ∧
    rejects 0x000000FF 0 0 0 .unassignedOpcode ∧ rejects 0x00000010 1 0 0 .unusedOperand ∧
    rejects 0x00000021 0 1 0 .unusedOperand ∧ rejects 0x00000050 0 0 1 .unusedOperand ∧
    rejects 0x00000064 0 0 1 .unusedOperand ∧ rejects 0x00000080 1 0 0 .unusedOperand := by decide

/-- V1: operands one above their range. -/
theorem test_decode_rejects_range :
    rejects 0x00000021 3 0 0 .operandRange ∧ rejects 0x00000022 2 0 0 .operandRange ∧
    rejects 0x00000050 2 0x4000 0 .operandRange ∧ rejects 0x00000085 2 0 0 .operandRange ∧
    rejects 0x00000041 0x100 0 0 .operandRange ∧ rejects 0x00000083 0x100 0 0 .operandRange ∧
    rejects 0x00000081 0x400 0 0 .operandRange ∧ rejects 0x00000031 0 0x10000 1 .operandRange ∧
    rejects 0x00000043 0x10000 0 0 .operandRange ∧ rejects 0x00000061 0x100 5 0 .operandRange ∧
    rejects 0x00000062 0x100 0 0 .operandRange := by decide

/-- V1, serialisation: `NV_WRITE 0x10, 0x2000, 3` as 16 bytes, byte 0 first. -/
theorem test_encode_bytes :
    encodeBytes (.nvWrite 0x10 0x2000 3) =
      [0x31, 0, 0, 0, 0x10, 0, 0, 0, 0, 0x20, 0, 0, 3, 0, 0, 0] := by decide
theorem test_decode_bytes :
    decodeBytes Config.ref ([0x31, 0, 0, 0, 0x10, 0, 0, 0, 0, 0x20, 0, 0, 3, 0, 0, 0] ++ [0xEE]) =
      .ok (.nvWrite 0x10 0x2000 3, [0xEE]) ∧
    decodeBytes Config.ref [0x10, 0, 0] = .error .shortFrame := by decide
theorem test_decodeTableWord :
    decodeTableWord 128 0x00000000000000000000000000000084 = some .evSerTxc ∧
    decodeTableWord 128 0x00000000000000000000020000000081 = some (.evAdcDone 512) := by decide

/-! ## Status codes (R88) -/

theorem test_status_codes :
    [Status.ok, .rejectedBusy, .capacityExceeded, .notFound, .empty, .rejectedArg, .notEnabled, .illegal].map Status.code =
      [0x00, 0x01, 0x02, 0x03, 0x04, 0x05, 0x06, 0xFF] ∧
    Status.empty.failRes = 0xFFFFFFFF := by decide

/-! ## Single steps -/

/-- After reset. -/
def base : State := State.reset

/-- A sampler that converts channel 2, at the last slot of its buffer (V3). -/
def scanning : State :=
  { base with adc := {
      channels := [{ slots := #v[100, 101, 102, 103, 104, 105, 106, 107], idx := 0 },
                   { slots := Vector.replicate 8 1023, idx := 3 }, { slots := #v[0, 0, 0, 0, 0, 0, 0, 7], idx := 7 }]
      ch := 2, on := true, inflight := true } }

/-- A write job of three bytes under way, its source in host memory (V4, P2). -/
def writing : State :=
  { base with
    nv := { busy := true, ie := true, addr := 0x10, rem := 3, src := 0x2000, first := 0x10, store := [(3, 0x55)] }
    mem := [(0x2000, 0xAA), (0x2001, 0xBB), (0x2002, 0xCC)] }

/-- A configured link (V5). -/
def linked : State := { base with ser := { base.ser with on := true } }

/-- A configured link that sends a byte while another waits (V5). -/
def sending : State :=
  { base with ser := {
      base.ser with
      tx := { buf := (Vector.replicate 128 0).set 1 0x62, inp := 2, out := 1 }
      rx := { buf := (Vector.replicate 128 0).set 127 0x78, inp := 0, out := 127 }
      txBusy := true, on := true } }

/-- The text "OK" in host memory, the link configured and idle (R164). -/
def texting : State := { linked with mem := [(0x2100, 0x4F), (0x2101, 0x4B)] }

/-- Line 0 bound, line 1 not (V7). -/
def bound : State := { base with ext := { base.ext with ext0 := { handler := 0x4000, ie := true, latched := false } } }

/-- With `EXT_LATCH`, line 0 unbound and an edge remembered (V7). -/
def latched : State :=
  { base with
    cfg := { Config.ref with extLatch := true }
    ext := { base.ext with ext0 := { handler := 0, ie := false, latched := true } } }

/-- Three events, `ms = 70`, as in V6.4 before its first refresh. -/
def listed : State :=
  { base with
    tick := { ms := 70, sub := 70, sec := 0 }
    sched := { events := [{ id := 0, interval := 50, last := 10, cb := 0x4200 },
                          { id := 1, interval := 200, last := 10, cb := 0x4204 },
                          { id := 2, interval := 60, last := 10, cb := 0x80004208 }]
               nextId := 3, prevMs := 0, walk := .idle } }

/-- V6.4 while the first callback runs. -/
def walking : State := { listed with sched := { listed.sched with prevMs := 70, walk := .waitCb 70 0 } }

/-- `n` live events; twenty of them are V6.1. -/
def live (n : Nat) : State :=
  { base with sched := {
      base.sched with
      events := (List.range n).map (fun k => { id := BitVec.ofNat 32 k, interval := 10, last := 0, cb := 0x4200 })
      nextId := BitVec.ofNat 32 n } }

/-- V6.2: identifiers 0 and 1 live, the counter wrapped. -/
def wrapped : State :=
  { base with sched := {
      base.sched with
      events := [{ id := 0, interval := 9, last := 0, cb := 0x4200 }, { id := 1, interval := 9, last := 0, cb := 0x4204 }]
      nextId := 0 } }

theorem test_nowMs : isNext (exec .nowMs { base with tick := { ms := 0x1F4, sub := 500, sec := 0 } })
    (fun t => answered t .ok 500) := by decide
theorem test_nowS : isNext (exec .nowS { base with tick := { ms := 2500, sub := 500, sec := 2 } })
    (fun t => answered t .ok 2) := by decide
/-- V2. -/
theorem test_evTick_second : isNext (exec .evTick { base with tick := { ms := 999, sub := 999, sec := 0 } })
    (fun t => t.tick = { ms := 1000, sub := 0, sec := 1 }) := by decide
/-- V2: the wrap of `ms` does not disturb `sub` or `sec`. -/
theorem test_evTick_wrap : isNext (exec .evTick { base with tick := { ms := 0xFFFFFFFF, sub := 295, sec := 4294967 } })
    (fun t => t.tick = { ms := 0, sub := 296, sec := 4294967 }) := by decide

/-- V3. -/
theorem test_adcStart_on :
    isNext (exec .adcStart { scanning with adc := { scanning.adc with inflight := false } })
      (fun t => t.adc.ch = 0 ∧ t.adc.inflight ∧ t.trace = [.convert 0]) := by decide
theorem test_adcStart_refused : isRefused (exec .adcStart scanning) .alreadyScanning := by decide
/-- V3: 828 div 8, and 7 div 8. -/
theorem test_adcRead :
    isNext (exec (.adcRead 0) scanning) (fun t => answered t .ok 103) ∧
    isNext (exec (.adcRead 2) scanning) (fun t => answered t .ok 0) := by decide
/-- V3: the sum of eight times 1023 does not wrap. -/
theorem test_adcRead_exact : isNext (exec (.adcRead 1) scanning) (fun t => answered t .ok 1023) := by decide
theorem test_adcPower_off :
    isNext (exec (.adcPower false) scanning) (fun t => !t.adc.on && !t.adc.inflight && t.adc.ch == 2) := by decide
theorem test_adcPower_on : isNext (exec (.adcPower true) { base with adc := { base.adc with on := false } })
    (fun t => t.adc.on && !t.adc.inflight) := by decide
/-- V3. -/
theorem test_evAdcDone :
    isNext (exec (.evAdcDone 512) scanning)
      (fun t => t.adc.channels[2]? = some { slots := #v[0, 0, 0, 0, 0, 0, 0, 512], idx := 0 } ∧ t.adc.ch = 0 ∧
        t.trace = [.convert 0]) := by decide
theorem test_evAdcDone_off : isNext (exec (.evAdcDone 1) base)
    (fun t => answered t .notEnabled 0 ∧ t.trace = []) := by decide

theorem test_nvBusy : isNext (exec .nvBusy writing) (fun t => answered t .ok 1) := by decide
/-- V4: a job that ends exactly at the last byte. -/
theorem test_nvWrite : isNext (exec (.nvWrite 0x3FD 0x2000 3) base)
    (fun t => answered t .ok 0x400 ∧ t.nv.busy ∧ t.nv.ie ∧ t.nv.addr = 0x3FD ∧ t.nv.rem = 3 ∧ t.nv.src = 0x2000) := by
  decide
/-- V4: the sum is exact. -/
theorem test_nvWrite_range : isNext (exec (.nvWrite 0xFFFFFFFF 0 0xFFFFFFFF) base)
    (fun t => answered t .capacityExceeded 0 ∧ t.nv.busy = false) := by decide
/-- V4. -/
theorem test_evNvReady : isNext (exec .evNvReady writing)
    (fun t => t.nv.store = [(3, 0x55), (0x10, 0xAA)] ∧ t.nv.addr = 0x11 ∧ t.nv.rem = 2 ∧ t.nv.src = 0x2001 ∧
      t.trace = [.nvWrite 0x10 0xAA]) := by decide
theorem test_evNvReady_last : isNext (exec .evNvReady { writing with nv := { writing.nv with rem := 0 } })
    (fun t => !t.nv.busy && !t.nv.ie && t.trace == []) := by decide
/-- V4. -/
theorem test_nvRead :
    isNext (exec (.nvRead 0x3FF 0xFFFF 1) { base with nv := { base.nv with store := [(0x3FF, 0xFF)] } })
      (fun t => t.mem = [(0xFFFF, 0xFF)] ∧ t.trace = [.nvRead 0x3FF] ∧ answered t .ok 0 ∧ t.fgJob = none) := by decide
/-- V4: busy is tested before the range. -/
theorem test_nvRead_busy : isNext (exec (.nvRead 0 0 0x401) writing)
    (fun t => answered t .rejectedBusy 0 ∧ t.trace = []) := by decide

theorem test_serConfig : isNext (exec .serConfig base) (fun t => t.ser.on) := by decide
/-- V5. -/
theorem test_serPushTx_idle : isNext (exec (.serPushTx 0x61) linked)
    (fun t => t.ser.tx.buf[0] = 0x61 ∧ t.ser.tx.inp = 1 ∧ t.ser.tx.out = 1 ∧ t.ser.txBusy ∧ t.trace = [.txByte 0x61]) := by
  decide
theorem test_serPushTx_refused : isRefused (exec (.serPushTx 0x61) base) .linkNotConfigured := by decide
/-- V5. -/
theorem test_serPopTx : isNext (exec .serPopTx sending)
    (fun t => answered t .ok 0x62 ∧ t.ser.tx.out = 2 ∧ t.ser.txBusy ∧ t.trace = []) := by decide
theorem test_serPopTx_empty : isNext (exec .serPopTx base) (fun t => answered t .empty 0xFFFFFFFF) := by decide
/-- R164's example: the first iteration sends 'O'. -/
theorem test_serSendStr : isNext (exec (.serSendStr 0x2100) texting)
    (fun t => t.trace = [.txByte 0x4F] ∧ t.answers = [] ∧ t.fgJob = some (.sendStr 0x2101)) := by decide
theorem test_serSendStr_end : isNext (exec (.serSendStr 0x2102) texting)
    (fun t => answered t .ok 0 ∧ t.fgJob = none ∧ t.trace = []) := by decide
/-- The receive queue's "out" wraps past slot 127. -/
theorem test_serPopRx : isNext (exec .serPopRx sending) (fun t => answered t .ok 0x78 ∧ t.ser.rx.out = 0) := by decide
theorem test_evSerRx : isNext (exec (.evSerRx 0x78) linked)
    (fun t => t.ser.rx.buf[0] = 0x78 ∧ t.ser.rx.inp = 1 ∧ t.ser.rx.out = 0) := by decide
theorem test_evSerRx_off : isNext (exec (.evSerRx 0x41) base)
    (fun t => answered t .notEnabled 0 ∧ t.ser.rx.inp = 0 ∧ t.trace = []) := by decide
/-- R167's example. -/
theorem test_evSerTxc : isNext (exec .evSerTxc sending)
    (fun t => t.trace = [.txByte 0x62] ∧ t.ser.tx.out = 2 ∧ t.ser.txBusy) := by decide
theorem test_evSerTxc_last :
    isNext (exec .evSerTxc { sending with ser := { sending.ser with tx := { sending.ser.tx with out := 2 } } })
      (fun t => t.ser.txBusy = false ∧ t.trace = []) := by decide

/-- V7. -/
theorem test_extBind : isNext (exec (.extBind .ext0 0x4000) base)
    (fun t => t.ext.ext0 = { handler := 0x4000, ie := true, latched := false } ∧ t.ext.ext1 = base.ext.ext1) := by decide
/-- V7, last row. -/
theorem test_extBind_latched : isNext (exec (.extBind .ext0 0x4000) latched)
    (fun t => t.ext.ext0 = { handler := 0x4000, ie := true, latched := false } ∧
      t.trace = [.invoke .ext0 0 0x4000 0]) := by decide
theorem test_evExt : isNext (exec (.evExt .ext0) bound)
    (fun t => t.trace = [.invoke .ext0 0 0x4000 0] ∧ answered t .ok 0) := by decide
theorem test_evExt_disabled : isNext (exec (.evExt .ext1) bound)
    (fun t => t.trace = [] ∧ answered t .notEnabled 0 ∧ t.ext = bound.ext) := by decide

/-- V6.2: candidates 0 and 1 are live and skipped. -/
theorem test_evtRegister : isNext (exec (.evtRegister 5 0x4208) wrapped)
    (fun t => answered t .ok 2 ∧ t.sched.nextId = 3 ∧
      t.sched.events[2]? = some { id := 2, interval := 5, last := 0, cb := 0x4208 }) := by decide
/-- V6.1: capacity is tested first; V6.3: a descriptor whose reference is 0 is absent whatever its kind. -/
theorem test_evtRegister_rejected :
    isNext (exec (.evtRegister 0 0) (live 20)) (fun t => answered t .capacityExceeded 0) ∧
    isNext (exec (.evtRegister 100 0x80000000) base) (fun t => answered t .rejectedArg 0) := by decide
/-- V6.4: allowed during a walk, the callback kept. -/
theorem test_evtModify : isNext (exec (.evtModify 0 10 0) walking)
    (fun t => t.sched.events[0]? = some { id := 0, interval := 10, last := 10, cb := 0x4200 } ∧
      t.sched.walk = .waitCb 70 0) := by decide
theorem test_evtModify_zero : isNext (exec (.evtModify 0 0 0x4400) listed)
    (fun t => answered t .notFound 0 ∧ t.sched = listed.sched) := by decide
theorem test_evtUnregister : isNext (exec (.evtUnregister 1) listed)
    (fun t => answered t .ok 0 ∧ t.sched.events.map Event.id = [0, 2] ∧ t.sched.nextId = 3) := by decide
theorem test_evtUnregister_unknown : isNext (exec (.evtUnregister 5) listed)
    (fun t => answered t .notFound 0) := by decide
/-- V6.4. -/
theorem test_evtRefresh : isNext (exec .evtRefresh listed)
    (fun t => t.trace = [.invoke .sched 0 0x4200 0] ∧ t.sched.walk = .waitCb 70 0 ∧ t.sched.prevMs = 70 ∧
      t.answers = []) := by decide
/-- V6.5: elapsed time across the wrap of `ms`, 99 ticks of 100. -/
theorem test_evtRefresh_wrap :
    isNext (exec .evtRefresh { base with
        tick := { ms := 0x53, sub := 0, sec := 0 }
        sched := { base.sched with
          events := [{ id := 3, interval := 100, last := 0xFFFFFFF0, cb := 0x4200 }], prevMs := 0x52 } })
      (fun t => t.trace = [] ∧ answered t .ok 0 ∧ t.sched.prevMs = 0x53) := by decide
/-- V6.4: event 1 is skipped, event 2 is due. -/
theorem test_evtCbDone : isNext (exec .evtCbDone walking)
    (fun t => t.trace = [.invoke .sched 1 0x4208 2] ∧ t.sched.walk = .waitCb 70 2 ∧
      t.sched.events.map Event.last = [70, 10, 10]) := by decide
theorem test_evtCbDone_end :
    isNext (exec .evtCbDone { walking with sched := { walking.sched with walk := .waitCb 70 2 } })
      (fun t => t.sched.walk = .idle ∧ t.answers = [{ op := some .evtRefresh, status := .ok, res := 0 },
                                                    { op := some .evtCbDone, status := .ok, res := 0 }]) := by decide

/-! ## Pseudo-operations (R93) -/

/-- V5: a byte in transmission and one queued: one event sends it, one ends the transmission, one is not enabled. -/
theorem test_pseudo_drainTx : isNext (runPseudo .drainTx sending)
    (fun t => t.trace = [.txByte 0x62] ∧ t.ser.txBusy = false ∧ t.answers.length = 3 ∧ answered t .notEnabled 0) := by
  decide
/-- V4: three bytes, the end of the job, and one event not enabled. -/
theorem test_pseudo_drainNv : isNext (runPseudo .drainNv writing)
    (fun t => t.trace = [.nvWrite 0x10 0xAA, .nvWrite 0x11 0xBB, .nvWrite 0x12 0xCC] ∧ t.nv.busy = false ∧
      t.answers.length = 5 ∧ answered t .notEnabled 0) := by decide

/-! ## Steps -/

/-- R90: the all-zero frame. -/
theorem test_step_illegal : isNext (step { base with inbox := [.frame .foreground 0] })
    (fun t => t.answers = [{ op := none, status := .illegal, res := 0 }] ∧ t.inbox = []) := by decide
/-- Log 20: an illegal frame with opcode bit 7 set does not wait for the text being sent; one with bit 7 clear does. -/
theorem test_step_illegal_bit7 :
    isNext (step { texting with fgJob := some (.sendStr 0x2100), inbox := [.frame .foreground 0x86] })
      (fun t => answered t .illegal 0 ∧ t.inbox = [] ∧ t.trace = []) ∧
    isNext (step { texting with fgJob := some (.sendStr 0x2100), inbox := [.frame .foreground 0x12] })
      (fun t => t.inbox = [.frame .foreground 0x12] ∧ t.trace = [.txByte 0x4F]) := by decide
/-- The frame of `SER_CONFIG`, placed as the opcode table numbers it, runs first after reset. -/
theorem test_withFetchWord : isNext (step (State.reset.withFetchWord 128 0x40))
    (fun t => t.ser.on ∧ t.answers = [{ op := some .serConfig, status := .ok, res := 0 }]) := by decide
/-- A host frame waits while its agent's text is sent; a stimulus does not. -/
theorem test_step_waits :
    isNext (step { texting with fgJob := some (.sendStr 0x2100), inbox := [.frame .foreground 0x10] })
      (fun t => t.trace = [.txByte 0x4F] ∧ t.inbox = [.frame .foreground 0x10]) ∧
    isNext (step { texting with fgJob := some (.sendStr 0x2100), inbox := [.frame .foreground 0x80] })
      (fun t => t.tick.ms = 1 ∧ t.inbox = [] ∧ t.fgJob = some (.sendStr 0x2100)) := by decide
/-- R262: the store survives a hardware reset, the trace does not. -/
theorem test_step_reset :
    isNext (step { writing with inbox := [.reset], trace := [.nvRead 0] })
      (fun t => t.nv.store = [(3, 0x55)] ∧ t.nv.busy = false ∧ t.trace = [] ∧ t.draws = 1) := by decide
theorem test_step_store :
    isNext (step { base with inbox := [.store 0xFFFF 7] }) (fun t => t.mem = [(0xFFFF, 7)]) ∧
    isRefused (step { base with inbox := [.store 0x10000 7] }) .noSuchHostAddress := by decide

/-! ## Witnesses: for each statement with hypotheses, concrete data that meet them, clause by clause -/

/-- `s` with one frame of the foreground host, or one stimulus, to come. -/
def asked (s : State) (F : Frame) : State := { s with inbox := [.frame .foreground F] }

/-- A state with something under way in every unit, which satisfies the invariant. -/
def rich : State :=
  { scanning with
    tick := walking.tick
    nv := writing.nv
    ser := sending.ser
    ext := bound.ext
    sched := walking.sched
    mem := [(0x2000, 0xAA), (0x2001, 0xBB), (0x2002, 0xCC), (0x2100, 0x4F), (0x2101, 0x4B)]
    fgJob := some (.sendStr 0x2101)
    inbox := [.frame .foreground 0x85, .frame .foreground 0x10, .goOn, .store 0x2101 0, .reset] }

/-- `s` with this Tick Source. -/
def atTick (s : State) (ms : Word) (sub : BitVec 10) : State := { s with tick := { ms := ms, sub := sub, sec := 0 } }

/-- The converter on, no conversion in flight. -/
def powered : State := { scanning with adc := { scanning.adc with inflight := false } }

/-- A job with no byte left, and one at the last byte of the store. -/
def written : State := { writing with nv := { writing.nv with rem := 0 } }
def lastByte : State := { writing with nv := { writing.nv with addr := 0x3FF, rem := 1 } }

/-- A transmission whose queue is drained. -/
def drained : State := { sending with ser := { sending.ser with tx := { sending.ser.tx with out := 2 } } }

/-- Both queues seen to hold 127 bytes, the transmit queue past the wrap of its "in" index. -/
def brimming : State :=
  { sending with ser := { sending.ser with rx := { sending.ser.rx with inp := 127, out := 0 },
                                           tx := { sending.ser.tx with inp := 0, out := 1 } } }

theorem exists_next {r : Result} {p : State → Bool} (h : isNext r p = true) : ∃ t, r = .next t ∧ p t = true := by
  cases r with
  | next t => exact ⟨t, rfl, h⟩
  | fault _ => cases h
  | refused _ => cases h

theorem runs {r : Result} (h : isNext r (fun _ => true) = true) : ∃ t, r = .next t :=
  (exists_next h).imp fun _ h => h.1

/-- Foreground code is never the case R245 (b) excludes. -/
theorem not_excluded {s : State} (h : s.ctx = .foreground) (P : Prop) : ¬ (s.ctx = .interrupt ∧ P) := by
  rw [h]; rintro ⟨h, _⟩; cases h

/-- Interrupt-context code is not either while no foreground operation is under way. -/
theorem not_excluded_irq {s : State} (h : s.fgJob = none) (f : Word → Transfer) :
    ¬ (s.ctx = .interrupt ∧ ∃ p, s.fgJob = some (f p)) := by
  rw [h]; rintro ⟨_, _, h⟩; cases h

theorem test_witness_DecodeUndoesEncode :
    (Instr.nvWrite 0xFFFFFFFF 0xFFFF 0xFFFFFFFF).wf Config.ref = true ∧ (Instr.evAdcDone 1023).wf Config.ref = true ∧
    (Instr.evtModify 255 0xFFFFFFFF 0xFFFFFFFF).wf Config.ref = true := by decide
theorem test_witness_DecodedFrameIsItsEncoding :
    decode Config.ref 0x00000001000000000000040000000032#128 = .ok (.nvRead 0x400 0 1) := by decide
theorem test_witness_FramesSerialiseLittleEndian : 15 < 16 ∧ 3 < 4 := by decide
theorem test_witness_IllegalFrameChangesNothing :
    (asked base 0).inbox = [.frame .foreground 0] ∧ waits (asked base 0) .foreground 0 = false ∧
    ¬ ∃ i : Instr, i.wf (asked base 0).cfg = true ∧ encode i = 0 := by
  refine ⟨rfl, by decide, ?_⟩
  rintro ⟨i, -, he⟩
  have h : (opcodeByte (encode i)) = 0 := by rw [he]; decide
  rw [encode, opcodeByte_frameOf] at h
  revert h
  cases i.opcode <;> decide
theorem test_witness_StepExecutesDecodedFrame :
    (waits (asked base 0x10) .foreground 0x10 = false ∧ decode base.cfg 0x10 = .ok .nowMs ∧ isStimulus 0x10 = false) ∧
    (waits (asked base 0x80) .foreground 0x80 = false ∧ decode base.cfg 0x80 = .ok .evTick ∧ isStimulus 0x80 = true) := by
  decide
theorem test_witness_HostFrameWaitsForTransfer :
    isStimulus 0x80 = true ∧ isStimulus 0x10 = false ∧
    { base with irqJob := some (.sendStr 0) }.irqJob = some (.sendStr 0) ∧
    (rich.irqJob = none ∧ rich.fgJob = some (.sendStr 0x2101)) ∧ base.irqJob = none ∧ base.fgJob = none := by decide
theorem test_witness_HardwareResetPutsResetValues :
    { rich with inbox := [.reset] }.inbox = [.reset] ∧ ¬ (base.nv.busy = true) ∧
    (rich.nv.busy = true ∧ ¬ rich.nv.first.toNat < rich.nv.addr.toNat) := by decide
theorem test_witness_OnlyTickEnabledAfterReset :
    [Instr.evTick, .evAdcDone 512, .evNvReady, .evSerRx 0, .evSerTxc, .evExt .ext1].all Instr.isEvent = true := by decide

theorem rich_adc : rich.adc.Inv rich.cfg := by
  refine ⟨by decide, ?_, by decide, by decide⟩
  simp [rich, scanning, base, State.reset, State.resetWith, Config.ref]
theorem rich_nv : rich.nv.Inv rich.cfg := by decide
theorem rich_ser : rich.ser.Inv := by decide
theorem rich_sched : rich.sched.Inv rich.cfg := by decide
theorem rich_mem : hostMemoryInv rich := by decide
theorem rich_inv : Inv rich :=
  ⟨by decide, by decide, rich_adc, rich_nv, rich_ser, by decide, by decide, rich_sched, rich_mem, by decide, by decide⟩

theorem test_witness_StepKeepsInvariant : Inv rich ∧ ∃ t, step rich = .next t := ⟨rich_inv, runs (by decide)⟩
theorem test_witness_InvariantStatesAreSafe : Inv rich := rich_inv
theorem test_witness_StepKeepsParameters : ∃ t, step rich = .next t := runs (by decide)

theorem test_witness_TickAdvancesTheCounters :
    (atTick base 998 998).cfg.valid ∧ (atTick base 998 998).tick.sub.toNat < 1000 ∧
    (atTick base 998 998).tick.sub.toNat + 1 ≠ 1000 ∧
    (atTick base 999 999).cfg.valid ∧ (atTick base 999 999).tick.sub.toNat < 1000 ∧
    (atTick base 999 999).tick.sub.toNat + 1 = 1000 := by decide
theorem test_witness_SecondsCountThousandTicks :
    base.cfg.valid ∧ base.tick = { ms := 0, sub := 0, sec := 0 } := by decide
theorem test_witness_AdcStartBeginsRotation :
    scanning.adc.inflight = true ∧
    (powered.adc.inflight = false ∧ powered.adc.on = true) ∧
    (base.adc.inflight = false ∧ base.adc.on = false) := by decide
theorem test_witness_AdcReadAnswersTruncatedMean :
    (scanning.adc.channels[(0 : Word).toNat]?).isSome = true ∧ (scanning.adc.channels[(2 : Word).toNat]?).isSome = true := by
  decide
theorem test_witness_AdcDoneStoresAndRotates :
    (base.adc.on && base.adc.inflight) = false ∧
    (scanning.adc.on = true ∧ scanning.adc.inflight = true ∧
      scanning.adc.channels[scanning.adc.ch]? = some { slots := #v[0, 0, 0, 0, 0, 0, 0, 7], idx := 7 }) := by decide
theorem test_witness_RotationIsRoundRobin :
    Inv rich ∧ rich.adc.inflight = true ∧ ([1, 2, 3] : List Word).length = rich.cfg.nCh ∧
      ([1, 2, 3] : List Word)[2]? = some 3 :=
  ⟨rich_inv, rfl, rfl, rfl⟩
theorem test_witness_MeanOfLastEightReadings :
    Inv rich ∧ rich.adc.inflight = true ∧ (List.replicate 24 (5 : Word)).length = 8 * rich.cfg.nCh ∧
      2 < rich.cfg.nCh ∧ (1 : Word).toNat = (rich.adc.ch + 2) % rich.cfg.nCh :=
  ⟨rich_inv, rfl, rfl, by decide, by decide⟩

theorem test_witness_NvWriteAcceptsOrRejects :
    base.cfg.valid ∧ (¬ (base.ctx = .interrupt ∧ ∃ x y z i, base.fgJob = some (.nvRead x y z i))) ∧
    writing.nv.busy = true ∧ base.nv.busy = false ∧
    base.cfg.nvSize < (0x3FE : Word).toNat + (3 : Word).toNat ∧
    base.cfg.nvSize < (0x401 : Word).toNat + (0 : Word).toNat ∧
    (0x400 : Word).toNat + (0 : Word).toNat ≤ base.cfg.nvSize ∧
    ((0x3FD : Word).toNat + (3 : Word).toNat ≤ base.cfg.nvSize ∧ (3 : Word) ≠ 0) :=
  ⟨by decide, not_excluded rfl _, by decide, by decide, by decide, by decide, by decide, by decide⟩
theorem test_witness_NvReadyMovesOneByte :
    writing.cfg.valid ∧ writing.nv.store.wf ∧ base.nv.ie = false ∧
    (written.cfg.valid ∧ written.nv.store.wf ∧ written.nv.ie = true ∧ written.nv.rem = 0) ∧
    (lastByte.cfg.valid ∧ lastByte.nv.store.wf ∧ lastByte.nv.ie = true ∧ lastByte.nv.rem ≠ 0 ∧
      lastByte.nv.addr.toNat < lastByte.cfg.nvSize) := by decide
theorem test_witness_NvReadTestsAndByteSteps :
    base.cfg.valid ∧ base.mem.wf ∧ writing.nv.busy = true ∧ base.nv.busy = false ∧
    base.cfg.nvSize < (0x400 : Word).toNat + (1 : Word).toNat ∧
    (0x400 : Word).toNat + (0 : Word).toNat ≤ base.cfg.nvSize ∧
    ((0x3FF : Word).toNat + (1 : Word).toNat ≤ base.cfg.nvSize ∧ (1 : Word) ≠ 0) ∧
    (0 < (1 : Word).toNat ∧ 0 + 1 = (1 : Word).toNat) ∧ (0 < (2 : Word).toNat ∧ 0 + 1 < (2 : Word).toNat) ∧
    Context.interrupt ≠ .foreground := by decide
theorem test_witness_NvReadCopiesTheRange :
    base.cfg.valid ∧ base.mem.wf ∧ base.inbox = [] ∧ base.irqJob = none ∧ base.nv.busy = false ∧ (0x400 : Word) ≠ 0 ∧
    (0 : Word).toNat + (0x400 : Word).toNat ≤ base.cfg.nvSize ∧ (0x400 : Word).toNat ≤ 2 ^ base.cfg.wAddr := by decide
theorem test_witness_JobTakesOneEventMoreThanBytes :
    writing.cfg.valid ∧ base.nv.store.wf ∧
    (¬ (base.ctx = .interrupt ∧ ∃ x y z i, base.fgJob = some (.nvRead x y z i))) ∧ base.nv.busy = false ∧
    (3 : Word) ≠ 0 ∧ (0x3FD : Word).toNat + (3 : Word).toNat ≤ base.cfg.nvSize ∧
    (0xFFFF : Word).toNat < 2 ^ base.cfg.wAddr ∧ 0 ≤ (3 : Word).toNat ∧ 3 ≤ (3 : Word).toNat :=
  ⟨by decide, by decide, not_excluded rfl _, by decide, by decide, by decide, by decide, by decide, by decide⟩
theorem test_witness_WriteThenReadGivesTheBytes :
    base.cfg.valid ∧ base.nv.store.wf ∧ base.mem.wf ∧ base.inbox = [] ∧
    (¬ (base.ctx = .interrupt ∧ ∃ x y z i, base.fgJob = some (.nvRead x y z i))) ∧ base.irqJob = none ∧
    base.nv.busy = false ∧ (0x3FD : Word).toNat + (3 : Word).toNat ≤ base.cfg.nvSize ∧
    (0x400 : Word).toNat + (0 : Word).toNat ≤ base.cfg.nvSize ∧ (3 : Word).toNat ≤ 2 ^ base.cfg.wAddr ∧
    (0xFFFF : Word).toNat < 2 ^ base.cfg.wAddr ∧ (3 : Word) ≠ 0 ∧ (0 : Word).toNat ≤ 2 ^ base.cfg.wAddr :=
  ⟨by decide, by decide, by decide, rfl, not_excluded rfl _, rfl, rfl, by decide, by decide, by decide, by decide,
    by decide, by decide⟩

theorem test_witness_SerPushTxQueuesOrSends :
    (¬ (base.ctx = .interrupt ∧ ∃ p, base.fgJob = some (.sendStr p))) ∧
    (¬ ({ linked with ctx := .interrupt }.ctx = .interrupt ∧
      ∃ p, { linked with ctx := .interrupt }.fgJob = some (.sendStr p))) ∧
    base.ser.on = false ∧ (sending.ser.on = true ∧ sending.ser.txBusy = true) ∧
    (linked.ser.on = true ∧ linked.ser.txBusy = false ∧ linked.ser.tx.inp = linked.ser.tx.out) :=
  ⟨not_excluded rfl _, not_excluded_irq (s := { linked with ctx := .interrupt }) rfl _, by decide, by decide, by decide⟩
theorem test_witness_SerPopsAnswerOldestByte :
    (¬ (base.ctx = .interrupt ∧ ∃ p, base.fgJob = some (.sendStr p))) ∧
    base.ser.tx.inp = base.ser.tx.out ∧ sending.ser.tx.inp ≠ sending.ser.tx.out ∧
    base.ser.rx.inp = base.ser.rx.out ∧ sending.ser.rx.inp ≠ sending.ser.rx.out :=
  ⟨not_excluded rfl _, by decide, by decide, by decide, by decide⟩
theorem test_witness_SendStrIteration :
    texting.cfg.valid ∧ (¬ (texting.ctx = .interrupt ∧ ∃ p, texting.fgJob = some (.sendStr p))) ∧
    base.ser.on = false ∧ texting.mem.read (0x2102 : Word).toNat = 0 ∧
    (texting.mem.read (0x2101 : Word).toNat ≠ 0 ∧ texting.ser.on = true ∧ texting.ser.txBusy = false ∧
      texting.ser.tx.inp = texting.ser.tx.out) ∧
    (rich.mem.read (0x2101 : Word).toNat ≠ 0 ∧ rich.ser.on = true ∧ rich.ser.txBusy = true) ∧
    (rich.cfg.valid ∧ { rich with ctx := .interrupt }.ctx = .interrupt ∧
      { rich with ctx := .interrupt }.fgJob = some (.sendStr 0x2101)) :=
  ⟨by decide, not_excluded rfl _, by decide, by decide, by decide, by decide, by decide, rfl, rfl⟩
theorem test_witness_SendStrIsOnePushPerByte :
    texting.cfg.valid ∧ texting.inbox = [] ∧ (¬ (texting.ctx = .interrupt ∧ ∃ q, texting.fgJob = some (.sendStr q))) ∧
    texting.irqJob = none ∧ texting.fgJob = none ∧ texting.ser.on = true ∧ texting.ser.tx.inp = texting.ser.tx.out ∧
    (0x2100 : Word).toNat < 2 ^ texting.cfg.wAddr ∧
    (∀ (k : Nat) (b : Byte), ([0x4F, 0x4B] : List Byte)[k]? = some b →
      b ≠ 0 ∧ texting.mem.read (((0x2100 : Word).toNat + k) % 2 ^ texting.cfg.wAddr) = b) ∧
    texting.mem.read (((0x2100 : Word).toNat + 2) % 2 ^ texting.cfg.wAddr) = 0 := by
  refine ⟨by decide, rfl, not_excluded rfl _, rfl, rfl, rfl, rfl, by decide, ?_, by decide⟩
  intro k b h
  match k, h with
  | 0, h => cases h; decide
  | 1, h => cases h; decide
  | k + 2, h => simp at h
theorem test_witness_SerialEventsMoveBytes :
    base.ser.on = false ∧ (linked.ser.on = true ∧ (linked.ser.on && linked.ser.txBusy) = false) ∧
    (rich.ser.on = true ∧ rich.ser.txBusy = true ∧ rich.ser.tx.inp ≠ rich.ser.tx.out) ∧
    (drained.ser.on = true ∧ drained.ser.txBusy = true ∧ drained.ser.tx.inp = drained.ser.tx.out) := by decide
theorem test_witness_ReceiveQueueIsFifo :
    linked.ser.on = true ∧ linked.ser.rx.inp = linked.ser.rx.out ∧
    (List.replicate 127 (0x41 : Byte)).length ≤ 127 := ⟨rfl, rfl, by simp⟩
theorem test_witness_TransmitQueueIsFifo :
    (¬ (linked.ctx = .interrupt ∧ ∃ p, linked.fgJob = some (.sendStr p))) ∧ linked.ser.on = true ∧
    linked.ser.txBusy = false ∧ linked.ser.tx.inp = linked.ser.tx.out ∧ List.replicate 128 (0x41 : Byte) ≠ [] ∧
    (List.replicate 128 (0x41 : Byte)).length ≤ 128 ∧
    (1 ≤ 128 ∧ 128 ≤ (List.replicate 128 (0x41 : Byte)).length) ∧ 127 < (List.replicate 128 (0x41 : Byte)).length :=
  ⟨not_excluded rfl _, rfl, rfl, rfl, by simp, by simp, by simp, by simp⟩
theorem test_witness_FullQueueReadsAsEmpty :
    (¬ (brimming.ctx = .interrupt ∧ ∃ p, brimming.fgJob = some (.sendStr p))) ∧ brimming.ser.on = true ∧
    (brimming.ser.rx.inp.toNat + 128 - brimming.ser.rx.out.toNat) % 128 = 127 ∧
    (brimming.ser.tx.inp.toNat + 128 - brimming.ser.tx.out.toNat) % 128 = 127 ∧ brimming.ser.txBusy = true :=
  ⟨not_excluded rfl _, rfl, by decide, by decide, rfl⟩

theorem test_witness_ExtBindSetsTheSlot :
    ((0xFFFFFFFF : Word) ≠ 0 ∧ (base.cfg.extLatch && (base.line .ext0).latched) = false) ∧
    ((1 : Word) ≠ 0 ∧ (latched.cfg.extLatch && (latched.line .ext0).latched) = true) ∧ Line.ext1 ≠ .ext0 := by decide
theorem test_witness_EdgeInvokesBoundHandler :
    (bound.line .ext0).ie = true ∧ (bound.line .ext1).ie = false ∧ Line.ext0 ≠ .ext1 := by decide

theorem test_witness_PseudoOperationsRunTheirExpansions :
    Inv rich ∧ rich.ser.txBusy = true ∧ rich.nv.busy = true := ⟨rich_inv, rfl, rfl⟩

/-- The due test at its boundary: 49 and 50 ticks of 50, and 100 of 100 across the wrap of `ms` (V6.5). -/
theorem test_witness_DueTestIsModularElapsedTime :
    Config.ref.valid ∧ ({ id := 0, interval := 50, last := 10, cb := 1 } : Event).due Config.ref 59 = false ∧
    ({ id := 0, interval := 50, last := 10, cb := 1 } : Event).due Config.ref 60 = true ∧
    ({ id := 0, interval := 100, last := 0xFFFFFFF0, cb := 1 } : Event).due Config.ref 0x54 = true := by decide
theorem test_witness_RegisterAppendsFreshEvent :
    base.cfg.valid ∧ base.ctx = .foreground ∧ (live 20).sched.nextId.toNat < 2 ^ base.cfg.wId ∧
    walking.sched.walk ≠ .idle ∧ ((live 20).sched.walk = .idle ∧ (live 20).sched.events.length = 20) ∧
    ((live 19).sched.events.length < 20 ∧ (0x80000000 : Word).extractLsb' 0 31 = 0) ∧
    ((1 : Word) ≠ 0 ∧ (0x80000001 : Word).extractLsb' 0 31 ≠ 0) ∧
    (∀ e ∈ wrapped.sched.events, e.id ≠ 2) ∧
    ∃ e ∈ wrapped.sched.events, e.id.toNat = (wrapped.sched.nextId.toNat + 1) % 2 ^ wrapped.cfg.wId := by decide
theorem test_witness_ModifyUpdatesTheRecord :
    walking.ctx = .foreground ∧ (∀ x ∈ walking.sched.events, x.id ≠ 5) ∧
    (walking.sched.events =
      [{ id := 0, interval := 50, last := 10, cb := 0x4200 }, { id := 1, interval := 200, last := 10, cb := 0x4204 }] ++
        { id := 2, interval := 60, last := 10, cb := 0x80004208 } :: [] ∧ (1 : Word) ≠ 0) := by decide
theorem test_witness_UnregisterRemovesTheRecord :
    listed.ctx = .foreground ∧ walking.sched.walk ≠ .idle ∧
    (listed.sched.walk = .idle ∧ (∀ x ∈ listed.sched.events, x.id ≠ 5)) ∧
    listed.sched.events = [{ id := 0, interval := 50, last := 10, cb := 0x4200 }] ++
      { id := 1, interval := 200, last := 10, cb := 0x4204 } ::
        [{ id := 2, interval := 60, last := 10, cb := 0x80004208 }] := by decide
theorem test_witness_RefreshInvokesFirstDueEvent :
    listed.ctx = .foreground ∧ walking.sched.walk ≠ .idle ∧
    (base.sched.walk = .idle ∧ base.tick.ms = base.sched.prevMs) ∧
    ((atTick (live 3) 9 9).sched.walk = .idle ∧ (atTick (live 3) 9 9).tick.ms ≠ (live 3).sched.prevMs ∧
      (∀ x ∈ (atTick (live 3) 9 9).sched.events, x.due base.cfg (atTick (live 3) 9 9).tick.ms = false)) ∧
    (listed.sched.walk = .idle ∧ listed.tick.ms ≠ listed.sched.prevMs ∧
      listed.sched.events = [] ++ { id := 0, interval := 50, last := 10, cb := 0x4200 } ::
        [{ id := 1, interval := 200, last := 10, cb := 0x4204 }, { id := 2, interval := 60, last := 10, cb := 0x80004208 }] ∧
      ({ id := 0, interval := 50, last := 10, cb := 0x4200 } : Event).due listed.cfg listed.tick.ms = true) := by decide
theorem test_witness_CallbackDoneStampsAndGoesOn :
    (base.ctx = .foreground ∧ ∀ now pos, base.sched.walk ≠ .waitCb now pos) ∧
    (walking.sched.walk = .waitCb 70 ([] : List Event).length ∧
      walking.sched.events = [] ++ { id := 0, interval := 50, last := 10, cb := 0x4200 } ::
        ([{ id := 1, interval := 200, last := 10, cb := 0x4204 }] ++
          { id := 2, interval := 60, last := 10, cb := 0x80004208 } :: []) ∧
      ({ id := 1, interval := 200, last := 10, cb := 0x4204 } : Event).due walking.cfg 70 = false ∧
      ({ id := 2, interval := 60, last := 10, cb := 0x80004208 } : Event).due walking.cfg 70 = true) ∧
    ∀ x ∈ ([] : List Event), x.due walking.cfg 70 = false :=
  ⟨⟨rfl, by intro _ _; simp [base, State.reset, State.resetWith]⟩, by decide, by decide⟩
theorem test_witness_RefreshFiresEachDueEventOnce :
    listed.ctx = .foreground ∧ listed.sched.walk = .idle ∧ listed.tick.ms ≠ listed.sched.prevMs := by decide
theorem test_witness_LateRefreshFiresOnce :
    base.cfg.valid ∧ base.ctx = .foreground ∧ base.sched.walk = .idle ∧ base.sched.events = [] ∧
    base.sched.nextId.toNat < 2 ^ base.cfg.wId ∧ base.tick.ms.toNat < 2 ^ base.cfg.wMs ∧ (10 : Word) ≠ 0 ∧
    (1 : Word).extractLsb' 0 31 ≠ 0 ∧ (10 : Word).toNat ≤ 10 ∧ 0xFFFFFFFF < 2 ^ base.cfg.wMs ∧
    (base.tick.ms.toNat + 10) % 2 ^ base.cfg.wMs ≠ base.sched.prevMs.toNat ∧
    (base.tick.ms.toNat + 0xFFFFFFFF) % 2 ^ base.cfg.wMs ≠ base.sched.prevMs.toNat := by decide
theorem test_witness_OperationsDuringWalk :
    walking.ctx = .foreground ∧ walking.sched.walk ≠ .idle ∧ Instr.evTick.opcode.unit ≠ .scheduler ∧
    rich.sched.walk = .waitCb 70 0 ∧ 2 < rich.sched.events.length := by decide
theorem test_witness_OtherUnitsIgnoreTheScheduler :
    (Instr.evTick.opcode.unit ≠ .scheduler ∧ (Instr.evAdcDone 1).opcode.unit ≠ .scheduler) ∧
    ∃ t, exec .evTick walking = .next t := ⟨by decide, runs (by decide)⟩

theorem test_witness_InterruptContextRefusals :
    { texting with ctx := .interrupt, fgJob := some (.sendStr 0x2100) }.ctx = .interrupt ∧
    { texting with ctx := .interrupt, fgJob := some (.sendStr 0x2100) }.fgJob = some (.sendStr 0x2100) ∧
    { base with ctx := .interrupt, fgJob := some (.nvRead 0 0 2 1) }.fgJob = some (.nvRead 0 0 2 1) := by decide
theorem test_witness_RejectedOperationChangesNothing :
    Instr.isEvent (.evtUnregister 5) = false ∧
    ∃ t a, exec (.evtUnregister 5) listed = .next t ∧ t.answers = listed.answers ++ [a] ∧ a.status ≠ .ok := by
  refine ⟨by decide, ?_⟩
  obtain ⟨t, h, h'⟩ := exists_next (r := exec (.evtUnregister 5) listed)
    (p := fun t => t.answers == listed.answers ++ [{ op := some .evtUnregister, status := .notFound, res := 0 }]) (by decide)
  exact ⟨t, _, h, by simpa using h', by decide⟩
theorem test_witness_OperationsThatNeverReject :
    Instr.opcode (.serPushTx 0) ∈ [Opcode.nowMs, .nowS, .adcStart, .adcRead, .adcPower, .nvBusy, .serConfig, .serPushTx,
      .serSendStr, .extBind, .evtRefresh, .evtCbDone] ∧ (∃ t, exec (.serPushTx 0) sending = .next t) ∧
    (∃ t, exec (.serSendStr 0x2102) texting = .next t ∧ t.job .foreground = none) ∧
    (∃ t, exec .evtRefresh base = .next t ∧ t.sched.walk = .idle) ∧
    ∃ t, transferStep .foreground (.sendStr 0x2101) rich = .next t :=
  ⟨by decide, runs (by decide),
    (exists_next (p := fun t => t.job .foreground == none) (by decide)).imp fun _ h => ⟨h.1, by simpa using h.2⟩,
    (exists_next (p := fun t => t.sched.walk == .idle) (by decide)).imp fun _ h => ⟨h.1, by simpa using h.2⟩,
    runs (by decide)⟩
theorem test_witness_HandlersOfUnitsCommute :
    Instr.isEvent (.evAdcDone 5) = true ∧ Instr.isEvent .evSerTxc = true ∧
    (Instr.evAdcDone 5).opcode.unit ≠ Instr.evSerTxc.opcode.unit ∧
    ∃ t, execAll [.evAdcDone 5, .evSerTxc] rich = .next t :=
  ⟨by decide, by decide, by decide, runs (by decide)⟩
theorem test_witness_WritersOfTickAndSampler :
    (∃ t, exec .nowMs rich = .next t) ∧ ∃ t, transferStep .foreground (.sendStr 0x2101) rich = .next t :=
  ⟨runs (by decide), runs (by decide)⟩
theorem test_witness_WritersOfStoreAndSerial :
    (∃ t, exec .evTick rich = .next t) ∧ (∃ t, transferStep .foreground (.nvRead 3 0xFFFF 1 0) rich = .next t) ∧
    ∃ t, transferStep .foreground (.sendStr 0x2101) rich = .next t :=
  ⟨runs (by decide), runs (by decide), runs (by decide)⟩
theorem test_witness_WritersOfLinesAndScheduler :
    (∃ t, exec .evTick rich = .next t) ∧ ∃ t, transferStep .interrupt (.nvRead 3 0xFFFF 1 0) rich = .next t :=
  ⟨runs (by decide), runs (by decide)⟩

end Sys2Proof.Tests
end

section
/-! SUPPORT. What a step does with a frame, and frame rules that go through every instruction: the parameters
(spec/00_scope.md R7) and, for the units beside the scheduler, the scheduler's state (R3). -/

namespace Sys2Proof.Machine

/-! ### The turn a step takes -/

theorem step_cons {s : State} {u : Turn} {rest : List Turn} (h : s.inbox = u :: rest) :
    step s = takeTurn u rest s := by simp [step, takeStep, h]

/-- A frame that need not wait is taken from the inbox. -/
theorem step_frame {s : State} {ctx : Context} {F : Frame} {rest : List Turn} (h : s.inbox = .frame ctx F :: rest)
    (hw : waits s ctx F = false) : step s = takeFrame ctx F { s with inbox := rest } := by
  simp [step_cons h, takeTurn, hw]

/-- A frame that must wait stays in the inbox (R12). -/
theorem step_frame_waits {s : State} {ctx : Context} {F : Frame} {rest : List Turn}
    (h : s.inbox = .frame ctx F :: rest) (hw : waits s ctx F = true) : step s = goOn s := by
  simp [step_cons h, takeTurn, hw]

/-- A frame that decodes is executed (R86). -/
theorem takeFrame_ok {ctx : Context} {F : Frame} {s : State} {i : Instr} (h : decode s.cfg F = .ok i) :
    takeFrame ctx F s = exec i (s.issuedBy ctx F) := by simp [takeFrame, h]

theorem issuedBy_stimulus {s : State} {ctx : Context} {F : Frame} (h : isStimulus F = true) :
    s.issuedBy ctx F = s := by simp [State.issuedBy, h]

theorem issuedBy_host {s : State} {ctx : Context} {F : Frame} (h : isStimulus F = false) :
    s.issuedBy ctx F = { s with ctx := ctx } := by simp [State.issuedBy, h]

@[simp] theorem issuedBy_cfg (s : State) (ctx : Context) (F : Frame) : (s.issuedBy ctx F).cfg = s.cfg := by
  cases h : isStimulus F
  · rw [issuedBy_host h]
  · rw [issuedBy_stimulus h]

theorem waits_stimulus {s : State} {ctx : Context} {F : Frame} (h : isStimulus F = true) : waits s ctx F = false := by
  simp [waits, h]

/-- A host frame waits exactly for the composite operations that R9 and R240 put before it. -/
theorem waits_host {s : State} {ctx : Context} {F : Frame} (h : isStimulus F = false) :
    waits s ctx F = (s.irqJob.isSome || (ctx == .foreground && s.fgJob.isSome)) := by simp [waits, h]

theorem goOn_interrupt {s : State} {j : Transfer} (h : s.irqJob = some j) : goOn s = transferStep .interrupt j s := by
  simp [goOn, h]

theorem goOn_foreground {s : State} {j : Transfer} (hi : s.irqJob = none) (hf : s.fgJob = some j) :
    goOn s = transferStep .foreground j s := by simp [goOn, hi, hf]

/-! ### Outcomes: a property of the next state, and a change of it -/

/-- The next state, if the outcome has one, satisfies `P`. -/
def AllNext (P : State → Prop) (r : Result) : Prop := ∀ t, r = .next t → P t

@[simp] theorem allNext_next {P : State → Prop} {t : State} : AllNext P (.next t) ↔ P t := by simp [AllNext]
@[simp] theorem allNext_fault {P : State → Prop} {r : Fault} : AllNext P (.fault r) := by simp [AllNext]
@[simp] theorem allNext_refused {P : State → Prop} {r : Refusal} : AllNext P (.refused r) := by simp [AllNext]

theorem allNext_ite {P : State → Prop} {c : Prop} [Decidable c] {r r' : Result} :
    AllNext P (if c then r else r') ↔ (c → AllNext P r) ∧ (¬ c → AllNext P r') := by
  split <;> simp [*]

@[simp] theorem mapNext_next (f : State → State) (t : State) : mapNext f (.next t) = .next (f t) := rfl

theorem mapNext_ite (f : State → State) (c : Prop) [Decidable c] (r r' : Result) :
    mapNext f (if c then r else r') = if c then mapNext f r else mapNext f r' := apply_ite (mapNext f) c r r'

/-! ### The parameters -/

theorem advance_cfg (now : Word) (pos : Nat) (s : State) : (advance now pos s).cfg = s.cfg := by
  unfold advance; split <;> rfl

theorem dispatch_cfg (l : Line) (s : State) : (dispatch l s).cfg = s.cfg := by
  unfold dispatch; dsimp only; split <;> rfl

theorem pushTx_cfg (b : Byte) (s : State) : AllNext (fun t => t.cfg = s.cfg) (pushTx b s) := by
  intro t h
  obtain ⟨-, ⟨-, rfl⟩ | ⟨-, c, q, -, rfl⟩⟩ := pushTx_next h <;> rfl

theorem nvReadStep_cfg (ctx : Context) (a b c : Word) (i : Nat) (s : State) :
    AllNext (fun t => t.cfg = s.cfg) (nvReadStep ctx a b c i s) := by
  intro t h
  obtain ⟨-, ⟨-, rfl⟩ | ⟨-, rfl⟩⟩ := nvReadStep_next h <;> simp

theorem sendStrStep_cfg (ctx : Context) (p : Word) (s : State) :
    AllNext (fun t => t.cfg = s.cfg) (sendStrStep ctx p s) := by
  intro t h
  obtain ⟨-, rfl⟩ | ⟨-, u, hu, rfl⟩ := sendStrStep_next h
  · simp
  · simpa using pushTx_cfg _ _ u hu

theorem transferStep_cfg (ctx : Context) (j : Transfer) (s : State) :
    AllNext (fun t => t.cfg = s.cfg) (transferStep ctx j s) := by
  cases j with
  | nvRead a b c i => exact nvReadStep_cfg ctx a b c i s
  | sendStr p => exact sendStrStep_cfg ctx p s

theorem goOn_cfg (s : State) : AllNext (fun t => t.cfg = s.cfg) (goOn s) := by
  intro t h
  obtain ⟨j, -, h⟩ | ⟨j, -, -, h⟩ | ⟨-, -, rfl⟩ := goOn_next h
  · exact transferStep_cfg _ j s t h
  · exact transferStep_cfg _ j s t h
  · rfl

/-- No instruction writes the parameters: each of its branches is an update of other fields. -/
theorem exec_cfg (i : Instr) (s : State) : AllNext (fun t => t.cfg = s.cfg) (exec i s) := by
  cases i with
  | nowMs | nowS | evTick | nvBusy | serConfig => exact allNext_next.mpr rfl
  | adcStart => simp [exec, execAdcStart, allNext_ite]
  | adcRead channel => simp only [exec, execAdcRead]; split <;> simp
  | adcPower on => cases on <;> simp [exec, execAdcPower]
  | evAdcDone sample =>
    simp only [exec, execEvAdcDone, allNext_ite]
    refine ⟨fun _ => ?_, by simp⟩
    split <;> simp
  | nvWrite address source size => simp [exec, execNvWrite, allNext_ite]
  | nvRead address destination size => simp [exec, execNvRead, allNext_ite, nvReadStep_cfg]
  | evNvReady => simp [exec, execEvNvReady, allNext_ite]
  | serPushTx byte =>
    simp only [exec, execSerPushTx, allNext_ite]
    refine ⟨by simp, fun _ => ?_⟩
    cases h : pushTx byte s with
    | next t => simpa using pushTx_cfg byte s t h
    | fault r => simp
    | refused r => simp
  | serPopTx =>
    simp only [exec, execSerPopTx, allNext_ite]
    refine ⟨by simp, fun _ => ?_⟩
    split <;> simp
  | serSendStr text => simp [exec, execSerSendStr, allNext_ite, sendStrStep_cfg]
  | serPopRx => simp only [exec, execSerPopRx]; split <;> simp
  | evSerRx byte => simp [exec, execEvSerRx, allNext_ite]
  | evSerTxc =>
    simp only [exec, execEvSerTxc, allNext_ite]
    refine ⟨fun _ => ?_, by simp⟩
    split <;> simp
  | extBind line handler => simp [exec, execExtBind, allNext_ite]
  | evExt line => simp [exec, execEvExt, allNext_ite, dispatch_cfg]
  | evtRegister interval callback => simp [exec, execEvtRegister, allNext_ite]
  | evtModify id interval callback =>
    simp only [exec, execEvtModify, allNext_ite]
    refine ⟨by simp, fun _ => ?_⟩
    split <;> simp [allNext_ite]
  | evtUnregister id => simp [exec, execEvtUnregister, allNext_ite]
  | evtRefresh => simp [exec, execEvtRefresh, allNext_ite, advance_cfg]
  | evtCbDone =>
    simp only [exec, execEvtCbDone, allNext_ite]
    refine ⟨by simp, fun _ => ?_⟩
    split <;> simp [allNext_ite, advance_cfg]

theorem takeFrame_cfg (ctx : Context) (F : Frame) (s : State) :
    AllNext (fun t => t.cfg = s.cfg) (takeFrame ctx F s) := by
  cases h : decode s.cfg F with
  | error e => simp [takeFrame, h, answerIllegal]
  | ok i => simpa [takeFrame_ok h] using exec_cfg i (s.issuedBy ctx F)

theorem takeTurn_cfg (u : Turn) (rest : List Turn) (s : State) :
    AllNext (fun t => t.cfg = s.cfg) (takeTurn u rest s) := by
  cases u with
  | frame ctx F => simp [takeTurn, allNext_ite, goOn_cfg, takeFrame_cfg ctx F { s with inbox := rest }]
  | goOn => exact goOn_cfg { s with inbox := rest }
  | store addr b => simp [takeTurn, hostStore, allNext_ite]
  | reset => simp [takeTurn, hardReset, State.resetWith]

theorem step_cfg (s : State) : AllNext (fun t => t.cfg = s.cfg) (step s) := by
  cases h : s.inbox with
  | nil => rw [step_idle h]; exact goOn_cfg s
  | cons u rest => rw [step_cons h]; exact takeTurn_cfg u rest s

/-! ### The scheduler's state, seen from the other units -/

/-- The same state with another scheduler in it. -/
def State.withSched (s : State) (x : Scheduler) : State := { s with sched := x }

section
variable (s : State) (x : Scheduler)

@[simp] theorem withSched_adc : (s.withSched x).adc = s.adc := rfl
@[simp] theorem withSched_ser : (s.withSched x).ser = s.ser := rfl
@[simp] theorem withSched_sched : (s.withSched x).sched = x := rfl
@[simp] theorem withSched_memRead (a : Word) : memRead (s.withSched x) a = memRead s a := rfl

theorem dispatch_withSched (l : Line) : dispatch l (s.withSched x) = (dispatch l s).withSched x := by
  cases l <;> simp only [dispatch, apply_ite (State.withSched · x)] <;> rfl

theorem pushTx_withSched (b : Byte) : pushTx b (s.withSched x) = mapNext (·.withSched x) (pushTx b s) := by
  cases h : (s.ser.tx.push b).pop <;> simp only [pushTx, withSched_ser, mapNext_ite, h] <;> rfl

theorem nvReadStep_withSched (ctx : Context) (a b c : Word) (i : Nat) :
    nvReadStep ctx a b c i (s.withSched x) = mapNext (·.withSched x) (nvReadStep ctx a b c i s) := by
  cases ctx <;> simp only [nvReadStep, mapNext_ite] <;> rfl

theorem sendStrStep_withSched (ctx : Context) (p : Word) :
    sendStrStep ctx p (s.withSched x) = mapNext (·.withSched x) (sendStrStep ctx p s) := by
  cases h : pushTx (memRead s p) s <;> cases ctx <;>
    simp only [sendStrStep, withSched_memRead, pushTx_withSched, mapNext_ite, h] <;> rfl

/-- An instruction of another unit does the same whatever the scheduler's state is: each branches on its own unit's
state, and each branch leaves the scheduler where it is. -/
theorem exec_withSched {i : Instr} (hi : i.opcode.unit ≠ .scheduler) :
    exec i (s.withSched x) = mapNext (·.withSched x) (exec i s) := by
  cases i with
  | nowMs | nowS | evTick | nvBusy | serConfig => rfl
  | adcStart => simp only [exec, execAdcStart, mapNext_ite]; rfl
  | adcRead channel =>
    cases h : s.adc.channels[channel.toNat]? <;> simp only [exec, execAdcRead, withSched_adc, h] <;> rfl
  | adcPower on => cases on <;> rfl
  | evAdcDone sample =>
    cases h : s.adc.channels[s.adc.ch]? <;> simp only [exec, execEvAdcDone, withSched_adc, mapNext_ite, h] <;> rfl
  | nvWrite address source size => simp only [exec, execNvWrite, mapNext_ite]; rfl
  | nvRead address destination size =>
    simp only [exec, execNvRead, nvReadStep_withSched, mapNext_ite]; rfl
  | evNvReady => simp only [exec, execEvNvReady, mapNext_ite]; rfl
  | serPushTx byte =>
    cases h : pushTx byte s <;> simp only [exec, execSerPushTx, pushTx_withSched, mapNext_ite, h] <;> rfl
  | serPopTx => cases h : s.ser.tx.pop <;> simp only [exec, execSerPopTx, withSched_ser, mapNext_ite, h] <;> rfl
  | serSendStr text => simp only [exec, execSerSendStr, sendStrStep_withSched, mapNext_ite]; rfl
  | serPopRx => cases h : s.ser.rx.pop <;> simp only [exec, execSerPopRx, withSched_ser, h] <;> rfl
  | evSerRx byte => simp only [exec, execEvSerRx, mapNext_ite]; rfl
  | evSerTxc => cases h : s.ser.tx.pop <;> simp only [exec, execEvSerTxc, withSched_ser, mapNext_ite, h] <;> rfl
  | extBind line handler => cases line <;> simp only [exec, execExtBind, mapNext_ite] <;> rfl
  | evExt line => cases line <;> simp only [exec, execEvExt, dispatch_withSched, mapNext_ite] <;> rfl
  | evtRegister _ _ | evtModify _ _ _ | evtUnregister _ | evtRefresh | evtCbDone => exact absurd rfl hi

end

/-- What does not read the scheduler does not write it: run it with the scheduler replaced by itself. -/
theorem exec_sched {i : Instr} (hi : i.opcode.unit ≠ .scheduler) (s : State) :
    AllNext (fun t => t.sched = s.sched) (exec i s) := by
  intro t h
  have hs : exec i s = mapNext (·.withSched s.sched) (exec i s) := exec_withSched s s.sched hi
  rw [h, mapNext_next, Host.Outcome.next.injEq] at hs
  rw [hs, withSched_sched]

/-! ### The statements -/

/-- Settles O14: a frame rule for each turn, and for the instruction a frame decodes to. -/
theorem stepKeepsParameters : Obligations.StepKeepsParameters := fun s => step_cfg s

/-- Settles O52: every operation of the other units commutes with replacing the scheduler. -/
theorem otherUnitsIgnoreTheScheduler : Obligations.OtherUnitsIgnoreTheScheduler :=
  fun _ s x hi => ⟨exec_withSched s x hi, exec_sched hi s⟩

/-- Settles O7: the step takes the frame, decodes it, and notes who issued it. -/
theorem stepExecutesDecodedFrame : Obligations.StepExecutesDecodedFrame := by
  intro s ctx F rest i hin hw hd
  have hstep : step s = exec i (State.issuedBy { s with inbox := rest } ctx F) :=
    (step_frame hin hw).trans (takeFrame_ok hd)
  exact ⟨fun hF => by rw [hstep, issuedBy_stimulus hF], fun hF => by rw [hstep, issuedBy_host hF]⟩

/-- Settles O8: the wait test of a host frame is that one of the two operations is under way, and `goOn` takes the
interrupt-context one first. -/
theorem hostFrameWaitsForTransfer : Obligations.HostFrameWaitsForTransfer := by
  intro s ctx F rest hin
  refine ⟨waits_stimulus, fun hF j hj => ?_, fun hF hi hc j hj => ?_, fun hi hc => ?_⟩
  · rw [step_frame_waits hin (by simp [waits_host hF, hj]), goOn_interrupt hj]
  · rw [step_frame_waits hin (by simp [waits_host hF, hc, hj]), goOn_foreground hi hj]
  · cases hF : isStimulus F with
    | true => exact waits_stimulus hF
    | false =>
      rw [waits_host hF]
      obtain rfl | hf := hc
      · simp [hi]
      · simp [hi, hf]

end Sys2Proof.Machine
end

section
/-! SUPPORT. The invariant (spec/10_state.md R22 to R35, spec/43_serial.md R171): what each unit's own update keeps,
which updates of the state keep the whole, and from these every instruction, turn and step. -/

namespace Sys2Proof.Machine

/-! ### The widths of a valid configuration, and the parts of the invariant -/

section
variable {p : Config} (h : p.valid)
include h

theorem valid_wMs : p.wMs ≤ 32 := h.1.2
theorem valid_wS : p.wS ≤ 32 := h.2.1.2
theorem valid_nCh : 1 ≤ p.nCh := h.2.2.1.1
theorem valid_wSample : p.wSample ≤ 32 := h.2.2.2.1.2.trans (by decide)
theorem valid_nvSize : p.nvSize ≤ 2 ^ 32 - 1 := h.2.2.2.2.1.2
theorem valid_wId : p.wId ≤ 32 := h.2.2.2.2.2.1.2
theorem valid_wAddr : p.wAddr ≤ 32 := h.2.2.2.2.2.2.2

end

section
variable {s : State} (h : Inv s)
include h

theorem inv_valid : s.cfg.valid := h.1
theorem inv_tick : s.tick.Inv s.cfg := h.2.1
theorem inv_adc : s.adc.Inv s.cfg := h.2.2.1
theorem inv_nv : s.nv.Inv s.cfg := h.2.2.2.1
theorem inv_ser : s.ser.Inv := h.2.2.2.2.1
theorem inv_sched : s.sched.Inv s.cfg := h.2.2.2.2.2.2.2.1

theorem inv_line (l : Line) : (s.line l).Inv s.cfg := by
  obtain ⟨-, -, -, -, -, h0, h1, -⟩ := h
  cases l
  · exact h0
  · exact h1

end

/-! ### The units' own updates -/

/-- `sub` is cleared when it reaches 1000, before it can wrap (R112). -/
theorem tickSource_advance_inv {p : Config} {t : TickSource} (hv : p.valid) (h : t.Inv p) : (t.advance p).Inv p := by
  obtain ⟨-, hsub, hsec⟩ := h
  unfold TickSource.advance
  dsimp only
  split
  · exact ⟨wrap_lt (valid_wMs hv), by simp, wrap_lt (valid_wS hv)⟩
  · next hne =>
    have hnext : (t.sub + 1).toNat = t.sub.toNat + 1 := by
      rw [BitVec.toNat_add]; exact Nat.mod_eq_of_lt (by simp only [msPerS] at hsub; simp; omega)
    exact ⟨wrap_lt (valid_wMs hv), by dsimp only; omega, hsec⟩

/-- A reading within its width goes into a channel, and the selector stays below `N_CH` (R123). -/
theorem sampler_deposit_inv {p : Config} {a : Sampler} {c : Channel} {sample : Word} (h : a.Inv p)
    (hc : a.channels[a.ch]? = some c) (hsample : sample.toNat < 2 ^ p.wSample) : (a.deposit p c sample).Inv p := by
  obtain ⟨hlen, hslots, hch, hon⟩ := h
  refine ⟨by simpa [Sampler.deposit] using hlen, fun c' hc' v hv => ?_, Nat.mod_lt _ (by omega), hon⟩
  obtain hmem | rfl := List.mem_or_eq_of_mem_set hc'
  · exact hslots c' hmem v hv
  · rw [Channel.store, Vector.toList_set] at hv
    obtain hmem | rfl := List.mem_or_eq_of_mem_set hv
    · exact hslots c (List.mem_of_getElem? hc) v hmem
    · exact hsample

/-- A job accepted by `NV_WRITE` fits the store (R141). -/
theorem nvWriter_start_inv {p : Config} {w : NvWriter} {address source size : Word} (h : w.Inv p)
    (hfits : address.toNat + size.toNat ≤ p.nvSize) (hsource : source.toNat < 2 ^ p.wAddr) :
    NvWriter.Inv p { w with addr := address, rem := size, src := source, first := address,
                            busy := true, ie := true } := by
  obtain ⟨-, -, -, -, -, hstore⟩ := h
  exact ⟨rfl, by dsimp only; omega, by dsimp only; omega, hsource, fun _ => ⟨hfits, le_refl _⟩, hstore⟩

/-- One byte of a job goes from `nv_rem` to the store, and `nv_addr` stays within it (R142). -/
theorem nvWriter_ready_inv {p : Config} {w : NvWriter} {b : Byte} (hv : p.valid) (h : w.Inv p) (hie : w.ie = true)
    (hrem : w.rem ≠ 0) :
    NvWriter.Inv p { w with store := w.store.write w.addr.toNat b, addr := w.addr + 1,
                            src := hostAddr p w.src 1, rem := w.rem - 1 } := by
  have hnvSize := valid_nvSize hv
  obtain ⟨hbusy, -, -, -, hjob, hwf, hbound⟩ := h
  obtain ⟨hfits, hfirst⟩ := hjob (hbusy ▸ hie)
  have hpos := toNat_pos_of_ne hrem
  have haddr : (w.addr + 1).toNat = w.addr.toNat + 1 := by
    rw [BitVec.toNat_add]; exact Nat.mod_eq_of_lt (by simp; omega)
  have hless : (w.rem - 1).toNat = w.rem.toNat - 1 := by
    exact BitVec.toNat_sub_of_le (BitVec.le_def.mpr hpos)
  refine ⟨hbusy, ?_, ?_, wrap_lt (valid_wAddr hv), fun _ => ⟨?_, ?_⟩, Memory.wf_write hwf _ _,
    Memory.bounded_write hbound (by omega)⟩ <;> dsimp only <;> omega

/-- A job with no byte left ends (R142). -/
theorem nvWriter_end_inv {p : Config} {w : NvWriter} (h : w.Inv p) :
    NvWriter.Inv p { w with ie := false, busy := false } := by
  obtain ⟨-, haddr, hrem, hsrc, -, hstore⟩ := h
  exact ⟨rfl, haddr, hrem, hsrc, nofun, hstore⟩

/-- The store after a hardware reset stays within its addresses (R263). -/
theorem storeAfterReset_bounded {p : Config} {w : NvWriter} (h : w.Inv p) (n : Nat) :
    ∀ cell ∈ storeAfterReset w n, cell.1 < p.nvSize := by
  obtain ⟨-, haddr, -, -, -, -, hbound⟩ := h
  unfold storeAfterReset
  split
  · next hcut => exact Memory.bounded_write hbound (by have := BitVec.lt_def.mp hcut.2; omega)
  · exact hbound

/-- A pop of the transmit queue keeps R171: with the transmitter idle it finds nothing. -/
theorem serial_pop_inv {x : Serial} {b : Byte} {q : Queue} (h : x.Inv) (hp : x.tx.pop = some (b, q)) :
    Serial.Inv { x with tx := q } := by
  obtain ⟨hidle, hbusy⟩ := h
  exact ⟨fun hb => absurd (hidle hb) (pop_isPop hp).1, hbusy⟩

/-- The end of a transmission: the queue has popped empty (R167). -/
theorem serial_stop_inv {x : Serial} (hp : x.tx.pop = none) : Serial.Inv { x with txBusy := false } := by
  obtain ⟨he, -⟩ | ⟨-, hs⟩ := pop_cases x.tx
  · exact ⟨fun _ => he, nofun⟩
  · rw [hs] at hp; cases hp

/-- A new record has a fresh identifier and a place in the list (R202, R203). -/
theorem scheduler_register_inv {p : Config} {x : Scheduler} {interval callback now : Word} (hv : p.valid)
    (h : x.Inv p) (hfull : x.events.length ≠ evtMax) (hidle : x.walk = .idle) (hpos : interval ≠ 0)
    (hinterval : interval.toNat < 2 ^ p.wMs) (hnow : now.toNat < 2 ^ p.wMs) (hcb : cbAbsent callback = false) :
    Scheduler.Inv p { x with
      events := x.events ++
        [{ id := allocId p x.events x.nextId, interval := interval, last := now, cb := callback }]
      nextId := wrap p.wId ((allocId p x.events x.nextId).toNat + 1) } := by
  obtain ⟨hlen, hnodup, hevents, hnext, hprev, -⟩ := h
  obtain ⟨k, hid, -, hfresh⟩ := allocId_spec hv hlen hnext
  have hnew : (allocId p x.events x.nextId).toNat < 2 ^ p.wId := by rw [hid]; exact Nat.mod_lt _ (by positivity)
  refine ⟨by simp; omega, ?_, fun e he => ?_, wrap_lt (valid_wId hv), hprev, by rw [hidle]; rfl⟩
  · rw [List.map_append, List.map_singleton, ← List.concat_eq_append]
    refine List.Nodup.concat ?_ hnodup
    rintro hmem
    obtain ⟨e, he, heq⟩ := List.mem_map.mp hmem
    exact hfresh e he heq
  · obtain he | he := List.mem_append.mp he
    · exact hevents e he
    · obtain rfl := List.mem_singleton.mp he
      exact ⟨hnew, toNat_pos_of_ne hpos, hinterval, hnow, hcb⟩

/-- Changing one record keeps the list legal, if the change keeps records legal and identifiers as they are. -/
theorem scheduler_modify_inv {p : Config} {x : Scheduler} {f : Event → Event} (h : x.Inv p)
    (hf : ∀ e : Event, e.Inv p → (f e).Inv p) (hid : ∀ e : Event, (f e).id = e.id) (k : Nat) :
    Scheduler.Inv p { x with events := x.events.modify k f } := by
  obtain ⟨hlen, hnodup, hevents, hnext, hprev, hwalk⟩ := h
  exact ⟨by simpa using hlen, by rwa [map_modify hid], forall_modify hevents hf, hnext, hprev, by simpa using hwalk⟩

/-- `EVT_MODIFY` of a record: an absent callback leaves the old one in place (R204). -/
theorem event_modify_inv {p : Config} {interval : Word} (callback : Word) (hpos : interval ≠ 0)
    (hinterval : interval.toNat < 2 ^ p.wMs) (e : Event) (h : e.Inv p) : (e.modify interval callback).Inv p := by
  obtain ⟨hid, -, -, hlast, hcb⟩ := h
  refine ⟨hid, toNat_pos_of_ne hpos, hinterval, hlast, ?_⟩
  unfold Event.modify
  dsimp only
  split
  · exact hcb
  · next hpresent => simpa using hpresent

/-- The stamp of a callback's return (R213). -/
theorem stampLast_inv {p : Config} {now : Word} (hnow : now.toNat < 2 ^ p.wMs) (e : Event) (h : e.Inv p) :
    (stampLast now e).Inv p := by
  obtain ⟨hid, hpos, hinterval, -, hcb⟩ := h
  exact ⟨hid, hpos, hinterval, hnow, hcb⟩

/-- Dropping a record outside a walk (R205). -/
theorem scheduler_erase_inv {p : Config} {x : Scheduler} (h : x.Inv p) (hidle : x.walk = .idle)
    (q : Event → Bool) : Scheduler.Inv p { x with events := x.events.eraseP q } := by
  obtain ⟨hlen, hnodup, hevents, hnext, hprev, -⟩ := h
  refine ⟨List.length_eraseP_le.trans hlen, hnodup.sublist (List.eraseP_sublist.map _),
    fun e he => hevents e (List.mem_of_mem_eraseP he), hnext, hprev, by rw [hidle]; rfl⟩

/-- A refresh pass that may be put where it is settled (R213, R214). -/
theorem scheduler_walk_inv {p : Config} {x : Scheduler} {w : Walk} (h : x.Inv p)
    (hw : w.settled p x.events.length = true) : Scheduler.Inv p { x with walk := w } := by
  obtain ⟨hlen, hnodup, hevents, hnext, hprev, -⟩ := h
  exact ⟨hlen, hnodup, hevents, hnext, hprev, hw⟩

/-- Outside a walk the scheduler stands at `IDLE`. -/
theorem walk_idle {s : State} (h : walkActive s = false) : s.sched.walk = .idle := by simpa [walkActive] using h

/-! ### Updates of the state -/

section
variable {s : State}

@[simp] theorem inv_emit {e : TraceEvent} : Inv (s.emit e) ↔ Inv s := Iff.rfl
@[simp] theorem inv_reply {op : Opcode} {st : Status} {res : Word} : Inv (s.reply op st res) ↔ Inv s := Iff.rfl
@[simp] theorem inv_invokeLine {l : Line} {h : Word} : Inv (s.invokeLine l h) ↔ Inv s := Iff.rfl

theorem inv_dispatch {l : Line} (h : Inv s) : Inv (dispatch l s) := by
  unfold dispatch; dsimp only; split <;> exact h

theorem inv_setTick {x : TickSource} (h : Inv s) (hx : x.Inv s.cfg) : Inv { s with tick := x } := by
  obtain ⟨hv, -, hrest⟩ := h
  exact ⟨hv, hx, hrest⟩

theorem inv_setAdc {x : Sampler} (h : Inv s) (hx : x.Inv s.cfg) : Inv { s with adc := x } := by
  obtain ⟨hv, htick, -, hrest⟩ := h
  exact ⟨hv, htick, hx, hrest⟩

/-- What is under way needs of the writer only that it stays idle. -/
theorem legal_setNv {x : NvWriter} (hbusy : x.busy = true → s.nv.busy = true) (j : Transfer) :
    j.legal s = true → j.legal { s with nv := x } = true :=
  legal_congr (s := s) (t := { s with nv := x }) rfl hbusy id

/-- The writer may change while what is under way does not need it to stay idle (R143). -/
theorem inv_setNv {x : NvWriter} (h : Inv s) (hx : x.Inv s.cfg)
    (hjobs : ∀ j, j ∈ s.fgJob ∨ j ∈ s.irqJob → j.legal s = true → j.legal { s with nv := x } = true) :
    Inv { s with nv := x } := by
  obtain ⟨hv, htick, hadc, -, hser, h0, h1, hsched, hmem, hfg, hirq⟩ := h
  exact ⟨hv, htick, hadc, hx, hser, h0, h1, hsched, hmem, fun j hj => hjobs j (.inl hj) (hfg j hj),
    fun j hj => hjobs j (.inr hj) (hirq j hj)⟩

/-- The serial unit may change while a configured link stays so (R164). -/
theorem inv_setSer {x : Serial} (h : Inv s) (hx : x.Inv) (hon : s.ser.on = true → x.on = true) :
    Inv { s with ser := x } := by
  obtain ⟨hv, htick, hadc, hnv, -, h0, h1, hsched, hmem, hfg, hirq⟩ := h
  have hjob (j : Transfer) : j.legal s = true → j.legal { s with ser := x } = true :=
    legal_congr (s := s) (t := { s with ser := x }) rfl id hon
  exact ⟨hv, htick, hadc, hnv, hx, h0, h1, hsched, hmem, fun j hj => hjob j (hfg j hj), fun j hj => hjob j (hirq j hj)⟩

theorem inv_setSched {x : Scheduler} (h : Inv s) (hx : x.Inv s.cfg) : Inv { s with sched := x } := by
  obtain ⟨hv, htick, hadc, hnv, hser, h0, h1, -, hrest⟩ := h
  exact ⟨hv, htick, hadc, hnv, hser, h0, h1, hx, hrest⟩

/-- A pass that was under way may be put where it is settled. -/
theorem inv_setWalk {w : Walk} (h : Inv (s.setWalk .idle)) (hw : w.settled s.cfg s.sched.events.length = true) :
    Inv (s.setWalk w) := by
  have hmoved := scheduler_walk_inv (inv_sched h) hw
  exact inv_setSched (s := s.setWalk .idle) h hmoved

theorem inv_setLine {l : Line} {b : Binding} (h : Inv s) (hb : b.Inv s.cfg) : Inv (s.setLine l b) := by
  obtain ⟨hv, htick, hadc, hnv, hser, h0, h1, hrest⟩ := h
  cases l
  · exact ⟨hv, htick, hadc, hnv, hser, hb, h1, hrest⟩
  · exact ⟨hv, htick, hadc, hnv, hser, h0, hb, hrest⟩

theorem inv_writeMem {a : Nat} {b : Byte} (h : Inv s) (ha : a < 2 ^ s.cfg.wAddr) :
    Inv { s with mem := s.mem.write a b } := by
  obtain ⟨hv, htick, hadc, hnv, hser, h0, h1, hsched, ⟨hwf, hbound⟩, hjobs⟩ := h
  exact ⟨hv, htick, hadc, hnv, hser, h0, h1, hsched, ⟨Memory.wf_write hwf _ _, Memory.bounded_write hbound ha⟩, hjobs⟩

theorem inv_setJob {ctx : Context} {o : Option Transfer} (h : Inv s) (ho : ∀ j ∈ o, j.legal s = true) :
    Inv (s.setJob ctx o) := by
  obtain ⟨hv, htick, hadc, hnv, hser, h0, h1, hsched, hmem, hfg, hirq⟩ := h
  cases ctx
  · exact ⟨hv, htick, hadc, hnv, hser, h0, h1, hsched, hmem, ho, hirq⟩
  · exact ⟨hv, htick, hadc, hnv, hser, h0, h1, hsched, hmem, hfg, ho⟩

/-- A pass goes on to a record of the list, or ends (R212). -/
theorem inv_advance {now : Word} {pos : Nat} (h : Inv (s.setWalk .idle)) (hnow : now.toNat < 2 ^ s.cfg.wMs) :
    Inv (advance now pos s) := by
  unfold advance
  split
  · next p e hdue =>
    obtain ⟨before, after, hdrop, rfl, -, -⟩ := firstDue_some hdue
    have hlen := congrArg List.length hdrop
    simp only [List.length_drop, List.length_append, List.length_cons] at hlen
    have hpos : pos + before.length < s.sched.events.length := by omega
    exact inv_setWalk (s := s.invokeCallback e) h (by simp [Walk.settled, hnow, hpos])
  · exact h

end

/-! ### Byte steps of the composite operations -/

/-- A pushed byte is queued, or sent by the idle transmitter, which is busy from then on (R162). -/
theorem pushTx_inv {b : Byte} {s : State} (h : Inv s) : AllNext Inv (pushTx b s) := by
  intro t ht
  obtain ⟨hon, ⟨hbusy, rfl⟩ | ⟨-, c, q, -, rfl⟩⟩ := pushTx_next ht
  · exact inv_setSer h ⟨fun hidle => by simp [hbusy] at hidle, fun _ => hon⟩ id
  · exact inv_setSer h ⟨nofun, fun _ => hon⟩ id

/-- `SER_PUSH_TX` is its push, answered (R162). -/
theorem execSerPushTx_next {b : Byte} {s t : State} (h : execSerPushTx b s = .next t) :
    ∃ u, pushTx b s = .next u ∧ t = u.reply .serPushTx .ok 0 := by
  unfold execSerPushTx at h
  split at h
  · cases h
  · split at h
    · next u hu => cases h; exact ⟨u, hu, rfl⟩
    · cases h
    · cases h

/-- A byte read from the store goes to an address of host memory (R143). -/
theorem nvReadStep_inv {ctx : Context} {a b c : Word} {i : Nat} {s : State} (h : Inv s)
    (hj : (Transfer.nvRead a b c i).legal s = true) : AllNext Inv (nvReadStep ctx a b c i s) := by
  intro t ht
  obtain ⟨-, hcase⟩ := nvReadStep_next ht
  have hmem : Inv { s with mem := s.mem.write (hostAddr s.cfg b i).toNat (s.nv.store.read (a.toNat + i))
                           trace := s.trace ++ [.nvRead (a.toNat + i)] } :=
    inv_writeMem (s := s.emit (.nvRead (a.toNat + i))) h (wrap_lt (valid_wAddr (inv_valid h)))
  obtain ⟨hmore, rfl⟩ | ⟨-, rfl⟩ := hcase
  · refine inv_setJob hmem (fun j hj' => ?_)
    obtain rfl : _ = j := Option.some.inj hj'
    simp only [Transfer.legal, Bool.and_eq_true, decide_eq_true_eq] at hj ⊢
    obtain ⟨⟨⟨hfits, -⟩, hb⟩, hbusy⟩ := hj
    exact ⟨⟨⟨hfits, hmore⟩, hb⟩, hbusy⟩
  · exact inv_setJob hmem nofun

/-- A text goes on at a host address, over a link that its push found configured (R164). -/
theorem sendStrStep_inv {ctx : Context} {p : Word} {s : State} (h : Inv s) : AllNext Inv (sendStrStep ctx p s) := by
  intro t ht
  obtain ⟨-, rfl⟩ | ⟨-, u, hu, rfl⟩ := sendStrStep_next ht
  · exact inv_setJob h nofun
  · refine inv_setJob (pushTx_inv h u hu) (fun j hj => ?_)
    obtain rfl : _ = j := Option.some.inj hj
    have hon : u.ser.on = true := by
      obtain ⟨hon, ⟨-, rfl⟩ | ⟨-, c, q, -, rfl⟩⟩ := pushTx_next hu <;> exact hon
    have hp : (hostAddr s.cfg p 1).toNat < 2 ^ s.cfg.wAddr := wrap_lt (valid_wAddr (inv_valid h))
    simp [Transfer.legal, pushTx_cfg _ _ u hu, hon, hp]

theorem transferStep_inv {ctx : Context} {j : Transfer} {s : State} (h : Inv s) (hj : j.legal s = true) :
    AllNext Inv (transferStep ctx j s) := by
  cases j with
  | nvRead a b c i => exact nvReadStep_inv h hj
  | sendStr p => exact sendStrStep_inv h

theorem goOn_inv {s : State} (h : Inv s) : AllNext Inv (goOn s) := by
  obtain ⟨-, -, -, -, -, -, -, -, -, hfg, hirq⟩ := id h
  intro t ht
  obtain ⟨j, hj, ht⟩ | ⟨j, -, hj, ht⟩ | ⟨-, -, rfl⟩ := goOn_next ht
  · exact transferStep_inv h (hirq j hj) t ht
  · exact transferStep_inv h (hfg j hj) t ht
  · exact h

/-! ### Instructions -/

theorem build_opcode {op : Opcode} {a b c : Word} {i : Instr} (h : op.build a b c = some i) : i.opcode = op := by
  cases op <;> simp only [Opcode.build, Option.map_eq_some_iff, Option.some.injEq] at h
  case adcPower | serPushTx | extBind | evSerRx | evExt => obtain ⟨x, -, rfl⟩ := h; rfl
  all_goals subst h; rfl

/-- A frame's instruction is an event exactly when its opcode bit 7 is set (R85). -/
theorem isStimulus_of_decode {p : Config} {F : Frame} {i : Instr} (h : decode p F = .ok i) :
    isStimulus F = i.isEvent := by
  obtain ⟨op, -, hcode, -, hbuild, -⟩ := decode_ok h
  rw [Instr.isEvent, build_opcode hbuild, hcode, isStimulus]

theorem wf_of_decode {p : Config} {F : Frame} {i : Instr} (h : decode p F = .ok i) : i.wf p = true := by
  obtain ⟨op, -, -, -, -, hwf⟩ := decode_ok h
  exact hwf

/-- Nothing holds up the agent that issues (R9, R240): no composite operation of its own, and none of a handler. -/
def Unheld (s : State) : Prop := s.irqJob = none ∧ (s.ctx = .foreground → s.fgJob = none)

/-- A host frame that need not wait is issued by an agent that nothing holds up. -/
theorem issuedBy_unheld {s : State} {ctx : Context} {F : Frame} (hF : isStimulus F = false)
    (hw : waits s ctx F = false) : Unheld (s.issuedBy ctx F) := by
  rw [waits_host hF] at hw
  rw [issuedBy_host hF]
  simp only [Bool.or_eq_false_iff, Option.isSome_eq_false_iff, Option.isNone_iff_eq_none] at hw
  obtain ⟨hirq, hfg⟩ := hw
  exact ⟨hirq, fun hctx => by cases hctx; simpa using hfg⟩

theorem execAdcStart_inv {s : State} (h : Inv s) : AllNext Inv (execAdcStart s) := by
  obtain ⟨hlen, hslots, hch, hon⟩ := inv_adc h
  have hfirst : 0 < s.cfg.nCh := Nat.zero_lt_of_lt hch
  simp only [execAdcStart, allNext_ite, done_eq, allNext_next, allNext_refused, inv_reply, inv_emit]
  refine ⟨fun _ => trivial, fun _ => ⟨fun hpower => ?_, fun _ => ?_⟩⟩
  · exact inv_setAdc h ⟨hlen, hslots, hfirst, fun _ => hpower⟩
  · exact inv_setAdc h ⟨hlen, hslots, hfirst, hon⟩

theorem execAdcRead_inv {channel : Word} {s : State} (h : Inv s) : AllNext Inv (execAdcRead channel s) := by
  unfold execAdcRead
  split
  · simp
  · exact allNext_next.mpr h

theorem execAdcPower_inv {on : Bool} {s : State} (h : Inv s) : AllNext Inv (execAdcPower on s) := by
  obtain ⟨hlen, hslots, hch, -⟩ := inv_adc h
  cases on
  · exact allNext_next.mpr (inv_setAdc (s := s) h ⟨hlen, hslots, hch, nofun⟩)
  · exact allNext_next.mpr (inv_setAdc (s := s) h ⟨hlen, hslots, hch, fun _ => rfl⟩)

theorem execEvAdcDone_inv {sample : Word} {s : State} (h : Inv s) (hsample : sample.toNat < 2 ^ s.cfg.wSample) :
    AllNext Inv (execEvAdcDone sample s) := by
  simp only [execEvAdcDone, allNext_ite, raise_eq, allNext_next, inv_reply]
  refine ⟨fun _ => ?_, fun _ => h⟩
  split
  · simp
  · next c hc => exact allNext_next.mpr (inv_setAdc (s := s) h (sampler_deposit_inv (inv_adc h) hc hsample))

/-- A job may start: an `NV_READ` under way would be the issuing agent's own, a handler's, or the foreground's with the
writer its own (R245 (b)). -/
theorem nvWrite_spares_jobs {s : State} {x : NvWriter} (hu : Unheld s) (hown : writerOwned s = false) (j : Transfer)
    (hj : j ∈ s.fgJob ∨ j ∈ s.irqJob) (hlegal : j.legal s = true) : j.legal { s with nv := x } = true := by
  obtain ⟨hirq, hfg⟩ := hu
  obtain hj | hj := hj
  · cases hctx : s.ctx with
    | foreground => rw [hfg hctx] at hj; cases hj
    | interrupt =>
      cases j with
      | nvRead a b c i =>
        rw [Option.mem_def] at hj
        simp [writerOwned, hctx, hj] at hown
      | sendStr p => exact hlegal
  · rw [hirq] at hj; cases hj

theorem execNvWrite_inv {address source size : Word} {s : State} (h : Inv s)
    (hsource : source.toNat < 2 ^ s.cfg.wAddr) (hu : Unheld s) : AllNext Inv (execNvWrite address source size s) := by
  simp only [execNvWrite, allNext_ite, done_eq, raise_eq, allNext_next, allNext_refused, inv_reply]
  refine ⟨fun _ => trivial, fun hown => ⟨fun _ => h, fun _ => ⟨fun _ => h, fun hfits => ⟨fun _ => h, fun _ => ?_⟩⟩⟩⟩
  exact inv_setNv h (nvWriter_start_inv (inv_nv h) (Nat.le_of_not_lt hfits) hsource)
    (nvWrite_spares_jobs hu (by simpa using hown))

theorem execNvRead_inv {address destination size : Word} {s : State} (h : Inv s)
    (hdest : destination.toNat < 2 ^ s.cfg.wAddr) : AllNext Inv (execNvRead address destination size s) := by
  simp only [execNvRead, allNext_ite, done_eq, raise_eq, allNext_next, inv_reply]
  refine ⟨fun _ => h, fun hbusy => ⟨fun _ => h, fun hfits => ⟨fun _ => h, fun hsize => nvReadStep_inv h ?_⟩⟩⟩
  have hpos := toNat_pos_of_ne hsize
  simp [Transfer.legal, hpos, hdest, Nat.le_of_not_lt hfits, hbusy]

theorem execEvNvReady_inv {s : State} (h : Inv s) : AllNext Inv (execEvNvReady s) := by
  simp only [execEvNvReady, allNext_ite, done_eq, raise_eq, allNext_next, allNext_fault, inv_reply]
  refine ⟨fun hie => ⟨fun _ => ?_, fun hrem => ⟨fun _ => trivial, fun _ => ?_⟩⟩, fun _ => h⟩
  · exact inv_setNv h (nvWriter_end_inv (inv_nv h)) fun j _ => legal_setNv (by simp) j
  · exact inv_setNv (s := s) h (nvWriter_ready_inv (inv_valid h) (inv_nv h) hie hrem) fun j _ => legal_setNv id j

theorem execSerPopTx_inv {s : State} (h : Inv s) : AllNext Inv (execSerPopTx s) := by
  simp only [execSerPopTx, allNext_ite]
  refine ⟨by simp, fun _ => ?_⟩
  split
  · exact allNext_next.mpr h
  · next b q hpop => exact allNext_next.mpr (inv_setSer (s := s) h (serial_pop_inv (inv_ser h) hpop) id)

theorem execSerPopRx_inv {s : State} (h : Inv s) : AllNext Inv (execSerPopRx s) := by
  unfold execSerPopRx
  split
  · exact allNext_next.mpr h
  · exact allNext_next.mpr (inv_setSer (s := s) h (inv_ser h) id)

theorem execEvSerRx_inv {byte : Byte} {s : State} (h : Inv s) : AllNext Inv (execEvSerRx byte s) := by
  simp only [execEvSerRx, allNext_ite, done_eq, raise_eq, allNext_next, inv_reply]
  exact ⟨fun _ => inv_setSer h (inv_ser h) id, fun _ => h⟩

theorem execEvSerTxc_inv {s : State} (h : Inv s) : AllNext Inv (execEvSerTxc s) := by
  simp only [execEvSerTxc, allNext_ite]
  refine ⟨fun _ => ?_, fun _ => allNext_next.mpr h⟩
  split
  · next hpop => exact allNext_next.mpr (inv_setSer (s := s) h (serial_stop_inv hpop) id)
  · next b q hpop => exact allNext_next.mpr (inv_setSer (s := s) h (serial_pop_inv (inv_ser h) hpop) id)

theorem execExtBind_inv {line : Line} {handler : Word} {s : State} (h : Inv s) :
    AllNext Inv (execExtBind line handler s) := by
  obtain ⟨-, hlatched⟩ := inv_line h line
  simp only [execExtBind, allNext_ite, done_eq, allNext_next, inv_reply, inv_invokeLine]
  refine ⟨fun hne => ⟨fun _ => ?_, fun hplain => ?_⟩, fun _ => ?_⟩
  · exact inv_setLine h ⟨⟨fun _ => hne, fun _ => rfl⟩, nofun⟩
  · exact inv_setLine h ⟨⟨fun _ => hne, fun _ => rfl⟩, fun hl => absurd ⟨(hlatched hl).1, hl⟩ hplain⟩
  · exact inv_setLine h ⟨by simp, fun hl => ⟨(hlatched hl).1, rfl⟩⟩

theorem execEvExt_inv {line : Line} {s : State} (h : Inv s) : AllNext Inv (execEvExt line s) := by
  obtain ⟨hbound, -⟩ := inv_line h line
  simp only [execEvExt, allNext_ite, done_eq, raise_eq, allNext_next, inv_reply]
  refine ⟨fun _ => inv_dispatch h, fun hie => ⟨fun hext => ?_, fun _ => h⟩⟩
  exact inv_setLine h ⟨hbound, fun _ => ⟨hext, by simpa using hie⟩⟩

theorem execEvtRegister_inv {interval callback : Word} {s : State} (h : Inv s)
    (hinterval : interval.toNat < 2 ^ s.cfg.wMs) : AllNext Inv (execEvtRegister interval callback s) := by
  obtain ⟨hms, -⟩ := inv_tick h
  simp only [execEvtRegister, allNext_ite, done_eq, raise_eq, allNext_next, allNext_refused, inv_reply]
  refine ⟨fun _ => trivial, fun _ => ⟨fun _ => trivial, fun hidle => ⟨fun _ => h, fun hfull => ⟨fun _ => h,
    fun hpos => ⟨fun _ => h, fun hcb => inv_setSched h ?_⟩⟩⟩⟩⟩
  exact scheduler_register_inv (inv_valid h) (inv_sched h) hfull (walk_idle (by simpa using hidle)) hpos hinterval hms
    (by simpa using hcb)

theorem execEvtModify_inv {id interval callback : Word} {s : State} (h : Inv s)
    (hinterval : interval.toNat < 2 ^ s.cfg.wMs) : AllNext Inv (execEvtModify id interval callback s) := by
  simp only [execEvtModify, allNext_ite]
  refine ⟨by simp, fun _ => ?_⟩
  split
  · exact allNext_next.mpr h
  · simp only [allNext_ite, done_eq, raise_eq, allNext_next, inv_reply]
    exact ⟨fun _ => h, fun hpos =>
      inv_setSched h (scheduler_modify_inv (inv_sched h) (event_modify_inv callback hpos hinterval) (fun _ => rfl) _)⟩

theorem execEvtUnregister_inv {id : Word} {s : State} (h : Inv s) : AllNext Inv (execEvtUnregister id s) := by
  simp only [execEvtUnregister, allNext_ite, done_eq, raise_eq, allNext_next, allNext_refused, inv_reply]
  exact ⟨fun _ => trivial, fun _ => ⟨fun _ => trivial, fun hidle =>
    ⟨fun _ => inv_setSched h (scheduler_erase_inv (inv_sched h) (walk_idle (by simpa using hidle)) _), fun _ => h⟩⟩⟩

theorem execEvtRefresh_inv {s : State} (h : Inv s) : AllNext Inv (execEvtRefresh s) := by
  obtain ⟨hms, -⟩ := inv_tick h
  obtain ⟨hlen, hnodup, hevents, hnext, -⟩ := inv_sched h
  simp only [execEvtRefresh, allNext_ite, done_eq, allNext_next, allNext_refused, inv_reply]
  refine ⟨fun _ => trivial, fun _ => ⟨fun _ => trivial, fun _ => ⟨fun _ => h, fun _ => inv_advance ?_ hms⟩⟩⟩
  exact inv_setSched (s := s) h ⟨hlen, hnodup, hevents, hnext, hms, rfl⟩

theorem execEvtCbDone_inv {s : State} (h : Inv s) : AllNext Inv (execEvtCbDone s) := by
  simp only [execEvtCbDone, allNext_ite]
  refine ⟨by simp, fun _ => ?_⟩
  split
  · next now pos hwalk =>
    have hnow : now.toNat < 2 ^ s.cfg.wMs := by
      obtain ⟨-, -, -, -, -, hsettled⟩ := inv_sched h
      rw [hwalk] at hsettled
      simp only [Walk.settled, Bool.and_eq_true, decide_eq_true_eq] at hsettled
      exact hsettled.1
    simp only [allNext_ite, done_eq, allNext_next, allNext_fault, inv_reply]
    refine ⟨fun _ => inv_advance ?_ hnow, fun _ => trivial⟩
    have hstamped := scheduler_modify_inv (inv_sched h) (stampLast_inv hnow) (fun _ => rfl) pos
    have hended := scheduler_walk_inv (w := .idle) hstamped rfl
    exact inv_setSched (s := s) h hended
  · simp
  · simp

/-- Every instruction keeps the invariant, with its operands in range and, for a host operation, nothing holding up
the agent that issues it. -/
theorem exec_inv {i : Instr} {s : State} (h : Inv s) (hwf : i.wf s.cfg = true) (hu : i.isEvent = false → Unheld s) :
    AllNext Inv (exec i s) := by
  cases i with
  | nowMs | nowS | nvBusy => exact allNext_next.mpr h
  | evTick => exact allNext_next.mpr (inv_setTick (s := s) h (tickSource_advance_inv (inv_valid h) (inv_tick h)))
  | adcStart => exact execAdcStart_inv h
  | adcRead channel => exact execAdcRead_inv h
  | adcPower on => exact execAdcPower_inv h
  | evAdcDone sample => exact execEvAdcDone_inv h (of_decide_eq_true hwf)
  | nvWrite address source size =>
    exact execNvWrite_inv h (of_decide_eq_true hwf) (hu (by simp [Instr.isEvent, Instr.opcode, Opcode.code]))
  | nvRead address destination size => exact execNvRead_inv h (of_decide_eq_true hwf)
  | evNvReady => exact execEvNvReady_inv h
  | serConfig => exact allNext_next.mpr (inv_setSer (s := s) h ⟨(inv_ser h).1, fun _ => rfl⟩ fun _ => rfl)
  | serPushTx byte =>
    intro t ht
    obtain ⟨u, hu, rfl⟩ := execSerPushTx_next ht
    exact pushTx_inv h u hu
  | serPopTx => exact execSerPopTx_inv h
  | serSendStr text => simp [exec, execSerSendStr, allNext_ite, sendStrStep_inv h]
  | serPopRx => exact execSerPopRx_inv h
  | evSerRx byte => exact execEvSerRx_inv h
  | evSerTxc => exact execEvSerTxc_inv h
  | extBind line handler => exact execExtBind_inv h
  | evExt line => exact execEvExt_inv h
  | evtRegister interval callback => exact execEvtRegister_inv h (of_decide_eq_true hwf)
  | evtModify id interval callback =>
    have hinterval := (Bool.and_eq_true _ _ ▸ hwf).2
    exact execEvtModify_inv h (of_decide_eq_true hinterval)
  | evtUnregister id => exact execEvtUnregister_inv h
  | evtRefresh => exact execEvtRefresh_inv h
  | evtCbDone => exact execEvtCbDone_inv h

/-! ### Reset -/

/-- Values for what reset leaves unspecified, within the legal values of R37 (R51, R260). -/
structure Unspecified.Legal (p : Config) (u : Unspecified) : Prop where
  channels : u.slots.length = p.nCh
  samples : ∀ c ∈ u.slots, ∀ v ∈ c.toList, v.toNat < 2 ^ p.wSample
  nvAddr : u.nvAddr.toNat ≤ p.nvSize
  nvRem : u.nvRem.toNat ≤ p.nvSize
  nvSrc : u.nvSrc.toNat < 2 ^ p.wAddr

theorem unspecified_zero_legal (p : Config) : (Unspecified.zero p).Legal p where
  channels := by simp [Unspecified.zero]
  samples c hc v hv := by
    obtain rfl := List.eq_of_mem_replicate hc
    rw [Vector.toList_replicate] at hv
    simp [List.eq_of_mem_replicate hv]
  nvAddr := by simp [Unspecified.zero]
  nvRem := by simp [Unspecified.zero]
  nvSrc := by simp [Unspecified.zero]

/-- A word drawn at or below a bound. -/
theorem ofNat_mod_le (n m : Nat) : (BitVec.ofNat 32 (n % (m + 1))).toNat ≤ m := by
  rw [BitVec.toNat_ofNat]
  exact (Nat.mod_le _ _).trans (Nat.le_of_lt_succ (Nat.mod_lt _ m.succ_pos))

theorem unspecified_draw_legal {p : Config} (hv : p.valid) (n : Nat) : (Unspecified.draw p n).Legal p where
  channels := by simp [Unspecified.draw]
  samples c hc v hv' := by
    obtain ⟨k, -, rfl⟩ := List.mem_map.mp hc
    obtain ⟨j, rfl⟩ : ∃ j : Fin 8, wrap p.wSample (Config.freeSample n k j.val).toNat = v := by
      simpa [List.mem_ofFn] using hv'
    exact wrap_lt (valid_wSample hv)
  nvAddr := ofNat_mod_le _ _
  nvRem := ofNat_mod_le _ _
  nvSrc := wrap_lt (valid_wAddr hv)

/-- The invariant holds after reset, whatever legal values the unspecified variables take. -/
theorem resetWith_inv {p : Config} {u : Unspecified} {store mem : Memory} {inbox : List Turn} {draws : Nat}
    (hv : p.valid) (hu : u.Legal p) (hstore : store.wf ∧ ∀ cell ∈ store, cell.1 < p.nvSize)
    (hmem : mem.wf ∧ ∀ cell ∈ mem, cell.1 < 2 ^ p.wAddr) : Inv (State.resetWith p u store mem inbox draws) := by
  have hadc : Sampler.Inv p (State.resetWith p u store mem inbox draws).adc := by
    refine ⟨by simp [State.resetWith, hu.channels], fun c hc => ?_, valid_nCh hv, nofun⟩
    obtain ⟨v, hv, rfl⟩ := List.mem_map.mp hc
    exact hu.samples v hv
  have hpow (w : Nat) : (0 : Word).toNat < 2 ^ w := Nat.two_pow_pos w
  have hunbound : Binding.Inv p { handler := 0, ie := false, latched := false } := ⟨by simp, nofun⟩
  exact ⟨hv, ⟨hpow _, Nat.succ_pos _, hpow _⟩, hadc, ⟨rfl, hu.nvAddr, hu.nvRem, hu.nvSrc, nofun, hstore⟩,
    ⟨fun _ => rfl, nofun⟩, hunbound, hunbound, ⟨Nat.zero_le _, List.nodup_nil, nofun, hpow _, hpow _, rfl⟩, hmem,
    nofun, nofun⟩

theorem hardReset_inv {s : State} (h : Inv s) : Inv (hardReset s) := by
  obtain ⟨hv, -, -, hnv, -, -, -, -, hmem, -⟩ := h
  obtain ⟨-, -, -, -, -, hwf, -⟩ := id hnv
  exact resetWith_inv hv (unspecified_draw_legal hv _) ⟨storeAfterReset_wf hwf _, storeAfterReset_bounded hnv _⟩ hmem

/-! ### Turns and steps -/

theorem takeFrame_inv {ctx : Context} {F : Frame} {s : State} (h : Inv s) (hw : waits s ctx F = false) :
    AllNext Inv (takeFrame ctx F s) := by
  have hissued : Inv (s.issuedBy ctx F) := by unfold State.issuedBy; split <;> exact h
  cases hd : decode s.cfg F with
  | error e => simp only [takeFrame, hd]; exact allNext_next.mpr h
  | ok i =>
    rw [takeFrame_ok hd]
    exact exec_inv hissued (by rw [issuedBy_cfg]; exact wf_of_decode hd)
      fun hev => issuedBy_unheld ((isStimulus_of_decode hd).trans hev) hw

theorem takeTurn_inv {u : Turn} {rest : List Turn} {s : State} (h : Inv s) : AllNext Inv (takeTurn u rest s) := by
  have hrest : Inv { s with inbox := rest } := h
  cases u with
  | frame ctx F =>
    simp only [takeTurn, allNext_ite]
    exact ⟨fun _ => goOn_inv h, fun hw => takeFrame_inv hrest (by simpa [waits] using hw)⟩
  | goOn => exact goOn_inv hrest
  | store addr b =>
    simp only [takeTurn, hostStore, allNext_ite, allNext_next]
    exact ⟨fun haddr => inv_writeMem hrest haddr, fun _ => by simp⟩
  | reset => exact allNext_next.mpr (hardReset_inv hrest)

theorem step_inv {s : State} (h : Inv s) : AllNext Inv (step s) := by
  cases hin : s.inbox with
  | nil => rw [step_idle hin]; exact goOn_inv h
  | cons u rest => rw [step_cons hin]; exact takeTurn_inv h

/-! ### The statements -/

/-- Settles O12: every turn keeps the invariant, a frame's by the instruction it decodes to. -/
theorem stepKeepsInvariant : Obligations.StepKeepsInvariant := fun _ t h ht => step_inv h t ht

/-- Settles O11: zero is a legal value of each unspecified variable. -/
theorem resetSatisfiesInvariant : Obligations.ResetSatisfiesInvariant :=
  resetWith_inv (by decide) (unspecified_zero_legal _) ⟨Memory.wf_nil, nofun⟩ ⟨Memory.wf_nil, nofun⟩

end Sys2Proof.Machine
end

section
/-! SUPPORT. Who may write what (spec/10_state.md R23 to R35): an instruction writes the variables of its own unit
alone, and within a unit each variable has its own writers. -/

namespace Sys2Proof.Machine

/-! ### Between units -/

/-- From `s` to `t` only unit `u` has changed; host memory counts with the writer, whose `NV_READ` writes it (R61). -/
def OnlyUnit (u : BlockUnit) (s t : State) : Prop :=
  (u ≠ .tick → t.tick = s.tick) ∧ (u ≠ .sampler → t.adc = s.adc) ∧ (u ≠ .writer → t.nv = s.nv ∧ t.mem = s.mem) ∧
  (u ≠ .serial → t.ser = s.ser) ∧ (u ≠ .lines → t.ext = s.ext) ∧ (u ≠ .scheduler → t.sched = s.sched)

section
variable {u : BlockUnit} {s t : State}

@[simp] theorem onlyUnit_rfl : OnlyUnit u s s := by simp [OnlyUnit]
@[simp] theorem onlyUnit_reply {op : Opcode} {st : Status} {res : Word} :
    OnlyUnit u s (t.reply op st res) ↔ OnlyUnit u s t := Iff.rfl
@[simp] theorem onlyUnit_emit {e : TraceEvent} : OnlyUnit u s (t.emit e) ↔ OnlyUnit u s t := Iff.rfl
@[simp] theorem onlyUnit_invokeLine {l : Line} {h : Word} : OnlyUnit u s (t.invokeLine l h) ↔ OnlyUnit u s t := Iff.rfl
@[simp] theorem onlyUnit_setJob {ctx : Context} {j : Option Transfer} :
    OnlyUnit u s (t.setJob ctx j) ↔ OnlyUnit u s t := by simp [OnlyUnit]
@[simp] theorem onlyUnit_setTick {x : TickSource} : OnlyUnit .tick s { s with tick := x } := by simp [OnlyUnit]
@[simp] theorem onlyUnit_setAdc {x : Sampler} : OnlyUnit .sampler s { s with adc := x } := by simp [OnlyUnit]
@[simp] theorem onlyUnit_setNv {x : NvWriter} : OnlyUnit .writer s { s with nv := x } := by simp [OnlyUnit]
@[simp] theorem onlyUnit_setSer {x : Serial} : OnlyUnit .serial s { s with ser := x } := by simp [OnlyUnit]
@[simp] theorem onlyUnit_setLine {l : Line} {b : Binding} : OnlyUnit .lines s (s.setLine l b) := by simp [OnlyUnit]
@[simp] theorem onlyUnit_setSched {x : Scheduler} : OnlyUnit .scheduler s { s with sched := x } := by simp [OnlyUnit]

@[simp] theorem onlyUnit_advance {now : Word} {pos : Nat} {x : Scheduler} :
    OnlyUnit .scheduler s (advance now pos { s with sched := x }) := by
  unfold advance
  split <;> simp [OnlyUnit]

@[simp] theorem onlyUnit_dispatch {l : Line} : OnlyUnit .lines s (dispatch l s) := by
  unfold dispatch
  dsimp only
  split <;> simp

end

theorem pushTx_onlyUnit (b : Byte) (s : State) : AllNext (OnlyUnit .serial s) (pushTx b s) := by
  intro t h
  obtain ⟨-, ⟨-, rfl⟩ | ⟨-, c, q, -, rfl⟩⟩ := pushTx_next h <;> simp [OnlyUnit]

theorem nvReadStep_onlyUnit (ctx : Context) (a b c : Word) (i : Nat) (s : State) :
    AllNext (OnlyUnit .writer s) (nvReadStep ctx a b c i s) := by
  intro t h
  obtain ⟨-, ⟨-, rfl⟩ | ⟨-, rfl⟩⟩ := nvReadStep_next h <;> simp [OnlyUnit]

theorem sendStrStep_onlyUnit (ctx : Context) (p : Word) (s : State) :
    AllNext (OnlyUnit .serial s) (sendStrStep ctx p s) := by
  intro t h
  obtain ⟨-, rfl⟩ | ⟨-, u, hu, rfl⟩ := sendStrStep_next h
  · simp
  · simpa using pushTx_onlyUnit _ _ u hu

/-- The unit a composite operation belongs to (R12). -/
def Transfer.unit : Transfer → BlockUnit
  | .nvRead _ _ _ _ => .writer
  | .sendStr _ => .serial

theorem transferStep_onlyUnit (ctx : Context) (j : Transfer) (s : State) :
    AllNext (OnlyUnit j.unit s) (transferStep ctx j s) := by
  cases j with
  | nvRead a b c i => exact nvReadStep_onlyUnit ctx a b c i s
  | sendStr p => exact sendStrStep_onlyUnit ctx p s

/-- An instruction changes its own unit alone (R3). -/
theorem exec_onlyUnit (i : Instr) (s : State) : AllNext (OnlyUnit i.opcode.unit s) (exec i s) := by
  cases i <;> simp only [Instr.opcode, Opcode.unit]
  case nowMs | nowS | evTick | nvBusy | serConfig => exact allNext_next.mpr (by simp)
  case adcStart => simp [exec, execAdcStart, allNext_ite]
  case adcRead channel => simp only [exec, execAdcRead]; split <;> simp
  case adcPower on => cases on <;> simp [exec, execAdcPower]
  case evAdcDone sample =>
    simp only [exec, execEvAdcDone, allNext_ite]
    refine ⟨fun _ => ?_, by simp⟩
    split <;> simp
  case nvWrite address source size => simp [exec, execNvWrite, allNext_ite]
  case nvRead address destination size => simp [exec, execNvRead, allNext_ite, nvReadStep_onlyUnit]
  case evNvReady => simp [exec, execEvNvReady, allNext_ite, OnlyUnit]
  case serPushTx byte =>
    intro t ht
    obtain ⟨u, hu, rfl⟩ := execSerPushTx_next ht
    exact pushTx_onlyUnit byte s u hu
  case serPopTx =>
    simp only [exec, execSerPopTx, allNext_ite]
    refine ⟨by simp, fun _ => ?_⟩
    split <;> simp
  case serSendStr text => simp [exec, execSerSendStr, allNext_ite, sendStrStep_onlyUnit]
  case serPopRx => simp only [exec, execSerPopRx]; split <;> simp
  case evSerRx byte => simp [exec, execEvSerRx, allNext_ite]
  case evSerTxc =>
    simp only [exec, execEvSerTxc, allNext_ite]
    refine ⟨fun _ => ?_, by simp⟩
    split <;> simp
  case extBind line handler => simp [exec, execExtBind, allNext_ite]
  case evExt line => simp [exec, execEvExt, allNext_ite]
  case evtRegister interval callback => simp [exec, execEvtRegister, allNext_ite]
  case evtModify id interval callback =>
    simp only [exec, execEvtModify, allNext_ite]
    refine ⟨by simp, fun _ => ?_⟩
    split <;> simp [allNext_ite]
  case evtUnregister id => simp [exec, execEvtUnregister, allNext_ite]
  case evtRefresh => simp [exec, execEvtRefresh, allNext_ite]
  case evtCbDone =>
    simp only [exec, execEvtCbDone, allNext_ite]
    refine ⟨by simp, fun _ => ?_⟩
    split <;> simp [allNext_ite]

/-! ### Within a unit -/

/-- R23: `EV_TICK` alone writes the counters. -/
theorem exec_tick {i : Instr} (hi : i.opcode ≠ .evTick) (s : State) :
    AllNext (fun t => t.tick = s.tick) (exec i s) := by
  by_cases hu : i.opcode.unit = .tick
  · cases i with
    | nowMs | nowS => exact allNext_next.mpr rfl
    | evTick => exact absurd rfl hi
    | _ => cases hu
  · exact fun t ht => (exec_onlyUnit i s t ht).1 hu

/-- What each operation may write of the sampler, from `a` to `b` (R25). -/
def SamplerWrites (op : Opcode) (a b : Sampler) : Prop :=
  (op ≠ .evAdcDone → b.channels = a.channels) ∧
  (op ≠ .evAdcDone → op ≠ .adcStart → b.ch = a.ch) ∧
  (op ≠ .adcPower → b.on = a.on) ∧
  (op ≠ .adcStart → op ≠ .adcPower → b.inflight = a.inflight)

theorem exec_sampler (i : Instr) (s : State) : AllNext (fun t => SamplerWrites i.opcode s.adc t.adc) (exec i s) := by
  by_cases hu : i.opcode.unit = .sampler
  · cases i with
    | adcStart => simp [exec, execAdcStart, allNext_ite, SamplerWrites, Instr.opcode]
    | adcRead channel => simp only [exec, execAdcRead]; split <;> simp [SamplerWrites]
    | adcPower on => cases on <;> simp [exec, execAdcPower, SamplerWrites, Instr.opcode]
    | evAdcDone sample =>
      simp only [exec, execEvAdcDone, allNext_ite]
      refine ⟨fun _ => ?_, by simp [SamplerWrites]⟩
      split <;> simp [SamplerWrites, Instr.opcode, Sampler.deposit]
    | _ => cases hu
  · intro t ht
    obtain ⟨-, hadc, -⟩ := exec_onlyUnit i s t ht
    simp [SamplerWrites, hadc hu]

theorem nvReadStep_nv (ctx : Context) (a b c : Word) (i : Nat) (s : State) :
    AllNext (fun t => t.nv = s.nv) (nvReadStep ctx a b c i s) := by
  intro t h
  obtain ⟨-, ⟨-, rfl⟩ | ⟨-, rfl⟩⟩ := nvReadStep_next h <;> simp

/-- What each operation may write of the writer and of host memory (R28, R61). -/
def WriterWrites (op : Opcode) (s t : State) : Prop :=
  (op ≠ .nvWrite → op ≠ .evNvReady → t.nv = s.nv) ∧ (op ≠ .evNvReady → t.nv.store = s.nv.store) ∧
  (op ≠ .nvRead → t.mem = s.mem)

@[simp] theorem writerWrites_reply {op op' : Opcode} {st : Status} {res : Word} {s t : State} :
    WriterWrites op s (t.reply op' st res) ↔ WriterWrites op s t := Iff.rfl

@[simp] theorem writerWrites_rfl {op : Opcode} {s : State} : WriterWrites op s s := by simp [WriterWrites]

theorem exec_writer (i : Instr) (s : State) : AllNext (WriterWrites i.opcode s) (exec i s) := by
  by_cases hu : i.opcode.unit = .writer
  · cases i with
    | nvBusy => exact allNext_next.mpr (by simp)
    | nvWrite address source size => simp [exec, execNvWrite, allNext_ite, WriterWrites, Instr.opcode]
    | nvRead address destination size =>
      have hstep : AllNext (WriterWrites .nvRead s) (nvReadStep s.ctx address destination size 0 s) :=
        fun t ht => by simp [WriterWrites, nvReadStep_nv _ _ _ _ _ s t ht]
      simp [exec, execNvRead, allNext_ite, Instr.opcode, hstep]
    | evNvReady => simp [exec, execEvNvReady, allNext_ite, WriterWrites, Instr.opcode]
    | _ => cases hu
  · intro t ht
    obtain ⟨-, -, hwriter, -⟩ := exec_onlyUnit i s t ht
    simp [WriterWrites, hwriter hu]

/-- A push on the transmit queue leaves the receive queue and the link's configuration alone (R162). -/
theorem pushTx_rx_on (b : Byte) (s : State) :
    AllNext (fun t => t.ser.rx = s.ser.rx ∧ t.ser.on = s.ser.on) (pushTx b s) := by
  intro t h
  obtain ⟨-, ⟨-, rfl⟩ | ⟨-, c, q, -, rfl⟩⟩ := pushTx_next h <;> exact ⟨rfl, rfl⟩

theorem sendStrStep_rx_on (ctx : Context) (p : Word) (s : State) :
    AllNext (fun t => t.ser.rx = s.ser.rx ∧ t.ser.on = s.ser.on) (sendStrStep ctx p s) := by
  intro t h
  obtain ⟨-, rfl⟩ | ⟨-, u, hu, rfl⟩ := sendStrStep_next h
  · simp
  · simpa using pushTx_rx_on _ _ u hu

/-- What each operation may write of the serial unit, from `a` to `b` (R30). -/
def SerialWrites (op : Opcode) (a b : Serial) : Prop :=
  (op ≠ .serPushTx → op ≠ .serSendStr → b.tx.buf = a.tx.buf ∧ b.tx.inp = a.tx.inp) ∧
  (op ≠ .serPushTx → op ≠ .serSendStr → op ≠ .serPopTx → op ≠ .evSerTxc → b.tx.out = a.tx.out) ∧
  (op ≠ .serPushTx → op ≠ .serSendStr → op ≠ .evSerTxc → b.txBusy = a.txBusy) ∧
  (op ≠ .evSerRx → b.rx.buf = a.rx.buf ∧ b.rx.inp = a.rx.inp) ∧
  (op ≠ .serPopRx → b.rx.out = a.rx.out) ∧
  (op ≠ .serConfig → b.on = a.on)

@[simp] theorem serialWrites_rfl (op : Opcode) (a : Serial) : SerialWrites op a a := by simp [SerialWrites]

theorem exec_serial (i : Instr) (s : State) : AllNext (fun t => SerialWrites i.opcode s.ser t.ser) (exec i s) := by
  by_cases hu : i.opcode.unit = .serial
  · cases i with
    | serConfig => exact allNext_next.mpr (by simp [SerialWrites, Instr.opcode])
    | serPushTx byte =>
      intro t ht
      obtain ⟨u, hu, rfl⟩ := execSerPushTx_next ht
      obtain ⟨hrx, hon⟩ := pushTx_rx_on byte s u hu
      simp [SerialWrites, Instr.opcode, hrx, hon]
    | serPopTx =>
      simp only [exec, execSerPopTx, allNext_ite]
      refine ⟨by simp, fun _ => ?_⟩
      split
      · simp
      · next b q hpop =>
        obtain ⟨-, -, -, hinp, hbuf⟩ := pop_isPop hpop
        simp [SerialWrites, Instr.opcode, hinp, hbuf]
    | serSendStr text =>
      have hstep : AllNext (fun t => SerialWrites .serSendStr s.ser t.ser) (sendStrStep s.ctx text s) := by
        intro t ht
        obtain ⟨hrx, hon⟩ := sendStrStep_rx_on s.ctx text s t ht
        simp [SerialWrites, hrx, hon]
      simp [exec, execSerSendStr, allNext_ite, Instr.opcode, hstep]
    | serPopRx =>
      simp only [exec, execSerPopRx]
      split
      · simp
      · next b q hpop =>
        obtain ⟨-, -, -, hinp, hbuf⟩ := pop_isPop hpop
        simp [SerialWrites, Instr.opcode, hinp, hbuf]
    | evSerRx byte => simp [exec, execEvSerRx, allNext_ite, SerialWrites, Instr.opcode, Queue.push]
    | evSerTxc =>
      simp only [exec, execEvSerTxc, allNext_ite]
      refine ⟨fun _ => ?_, by simp⟩
      split
      · simp [SerialWrites, Instr.opcode]
      · next b q hpop =>
        obtain ⟨-, -, -, hinp, hbuf⟩ := pop_isPop hpop
        simp [SerialWrites, Instr.opcode, hinp, hbuf]
    | _ => cases hu
  · intro t ht
    obtain ⟨-, -, -, hser, -⟩ := exec_onlyUnit i s t ht
    simp [hser hu]

/-- The slots of the lines are the dispatch unit's whole state (R31). -/
theorem line_congr {s t : State} (h : t.ext = s.ext) (l : Line) : t.line l = s.line l := by
  cases l <;> simp [State.line, h]

theorem dispatch_ext (l : Line) (s : State) : (dispatch l s).ext = s.ext := by
  unfold dispatch
  dsimp only
  split <;> rfl

/-- R32: `EXT_BIND` alone writes a line's handler and enable; an edge is at most remembered (R191). -/
theorem exec_bindings {i : Instr} (hi : i.opcode ≠ .extBind) (s : State) :
    AllNext (fun t => ∀ l, (t.line l).handler = (s.line l).handler ∧ (t.line l).ie = (s.line l).ie) (exec i s) := by
  by_cases hu : i.opcode.unit = .lines
  · cases i with
    | extBind line handler => exact absurd rfl hi
    | evExt line =>
      simp only [exec, execEvExt, allNext_ite, done_eq, raise_eq, allNext_next]
      refine ⟨fun _ l => ?_, fun _ => ⟨fun _ l => ?_, fun _ l => ⟨rfl, rfl⟩⟩⟩
      · simp [line_congr (t := (dispatch line s).reply _ _ _) (dispatch_ext line s) l]
      · rw [line_congr (reply_ext _ _ _ _) l]
        by_cases hl : l = line
        · simp [hl]
        · simp [setLine_line_other s _ hl]
    | _ => cases hu
  · intro t ht l
    obtain ⟨-, -, -, -, hext, -⟩ := exec_onlyUnit i s t ht
    simp [line_congr (hext hu) l]

theorem unit_ne_lines {op : Opcode} (hbind : op ≠ .extBind) (hedge : op ≠ .evExt) : op.unit ≠ .lines := by
  cases op <;> simp_all [Opcode.unit]

theorem unit_ne_scheduler {op : Opcode}
    (h : op ∉ [Opcode.evtRegister, .evtModify, .evtUnregister, .evtRefresh, .evtCbDone]) : op.unit ≠ .scheduler := by
  cases op <;> simp_all [Opcode.unit]

/-! ### The statements -/

/-- Settles O57: between units by `exec_onlyUnit`, and within the sampler operation by operation. -/
theorem writersOfTickAndSampler : Obligations.WritersOfTickAndSampler := by
  refine ⟨fun i s t h => ⟨fun hi => exec_tick hi s t h, exec_sampler i s t h⟩, fun ctx j s t h => ?_⟩
  obtain ⟨htick, hadc, -⟩ := transferStep_onlyUnit ctx j s t h
  cases j <;> exact ⟨htick nofun, hadc nofun⟩

/-- Settles O58: each instruction of the two units in turn; a byte step changes its own unit, and `NV_READ`'s not the
writer's variables. -/
theorem writersOfStoreAndSerial : Obligations.WritersOfStoreAndSerial := by
  refine ⟨fun i s t h => ?_, fun ctx j s t h => ?_⟩
  · obtain ⟨hnv, hstore, hmem⟩ := exec_writer i s t h
    obtain ⟨htx, htxOut, hbusy, hrx, hrxOut, hon⟩ := exec_serial i s t h
    exact ⟨hnv, hstore, htx, htxOut, hbusy, hrx, hrxOut, hon, hmem⟩
  · obtain ⟨-, -, hwriter, hser, -⟩ := transferStep_onlyUnit ctx j s t h
    cases j with
    | nvRead a b c i =>
      have hser := hser nofun
      exact ⟨nvReadStep_nv ctx a b c i s t h, by rw [hser], by rw [hser], nofun, fun _ => hser⟩
    | sendStr p =>
      obtain ⟨hnv, hmem⟩ := hwriter nofun
      obtain ⟨hrx, hon⟩ := sendStrStep_rx_on ctx p s t h
      exact ⟨hnv, hrx, hon, fun _ => hmem, nofun⟩

/-- Settles O59: the two units' instructions are the ones the statement lists, and no composite operation is theirs. -/
theorem writersOfLinesAndScheduler : Obligations.WritersOfLinesAndScheduler := by
  refine ⟨fun i s t h => ?_, fun ctx j s t h => ?_⟩
  · obtain ⟨-, -, -, -, hext, hsched⟩ := exec_onlyUnit i s t h
    exact ⟨fun hbind => exec_bindings hbind s t h, fun hbind hedge => hext (unit_ne_lines hbind hedge),
      fun hop => hsched (unit_ne_scheduler hop)⟩
  · obtain ⟨-, -, -, -, hext, hsched⟩ := transferStep_onlyUnit ctx j s t h
    cases j <;> exact ⟨hext nofun, hsched nofun⟩

end Sys2Proof.Machine
end

section
/-! SUPPORT. Decoding and encoding (spec/30_encoding.md R80 to R91): `decode` by the fields of a frame, the operand
words of a built instruction, the rows of the opcode table, the bytes of a frame, and what becomes of an illegal
frame. -/

namespace Sys2Proof

/-! ### Decoding by fields -/

section
variable {p : Config} {F : Frame} {op : Opcode} (hres : reservedField F = 0) (hcode : opcodeByte F = op.code)
  (hunused : unusedWordsZero op.format (wordA F) (wordB F) (wordC F) = true)
include hres hcode hunused

/-- A frame that passes all four tests of R86. -/
theorem decode_eq_ok {i : Instr} (hbuild : op.build (wordA F) (wordB F) (wordC F) = some i) (hwf : i.wf p = true) :
    decode p F = .ok i := by
  simp [decode, hres, hcode, hunused, hbuild, hwf]

/-- A frame whose operands alone are at fault (R86 step 4, R89). -/
theorem decode_eq_operandRange (hrange : ∀ i, op.build (wordA F) (wordB F) (wordC F) = some i → i.wf p = false) :
    decode p F = .error .operandRange := by
  cases hbuild : op.build (wordA F) (wordB F) (wordC F) with
  | none => simp [decode, hres, hcode, hunused, hbuild]
  | some i => simp [decode, hres, hcode, hunused, hbuild, hrange i hbuild]

end

/-- The first three tests of R86 pass before the operands are looked at. -/
theorem decode_operandRange {p : Config} {F : Frame} (h : decode p F = .error .operandRange) :
    ∃ op : Opcode, reservedField F = 0 ∧ op.code = opcodeByte F ∧
      unusedWordsZero op.format (wordA F) (wordB F) (wordC F) = true := by
  unfold decode at h
  split at h
  · cases h
  next hr =>
    split at h
    · cases h
    next op hop =>
      split at h
      next hu => exact ⟨op, by simpa using hr, code_of_ofCode hop, hu⟩
      · cases h

theorem code_injective : Function.Injective Opcode.code := fun op op' h => by
  simpa using congrArg Opcode.ofCode h

/-! ### Round trips -/

/-- The operand words of every instruction rebuild it (R82, R89). -/
theorem operandsRebuild (i : Instr) : Laws.OperandsRebuild.Statement i := by
  cases i with
  | nowMs => exact Laws.OperandsRebuild.nowMs
  | nowS => exact Laws.OperandsRebuild.nowS
  | adcStart => exact Laws.OperandsRebuild.adcStart
  | adcRead channel => exact Laws.OperandsRebuild.adcRead channel
  | adcPower on => exact Laws.OperandsRebuild.adcPower on
  | nvBusy => exact Laws.OperandsRebuild.nvBusy
  | nvWrite address source size => exact Laws.OperandsRebuild.nvWrite address source size
  | nvRead address destination size => exact Laws.OperandsRebuild.nvRead address destination size
  | serConfig => exact Laws.OperandsRebuild.serConfig
  | serPushTx byte => exact Laws.OperandsRebuild.serPushTx byte
  | serPopTx => exact Laws.OperandsRebuild.serPopTx
  | serSendStr text => exact Laws.OperandsRebuild.serSendStr text
  | serPopRx => exact Laws.OperandsRebuild.serPopRx
  | extBind line handler => exact Laws.OperandsRebuild.extBind line handler
  | evtRegister interval callback => exact Laws.OperandsRebuild.evtRegister interval callback
  | evtModify id interval callback => exact Laws.OperandsRebuild.evtModify id interval callback
  | evtUnregister id => exact Laws.OperandsRebuild.evtUnregister id
  | evtRefresh => exact Laws.OperandsRebuild.evtRefresh
  | evtCbDone => exact Laws.OperandsRebuild.evtCbDone
  | evTick => exact Laws.OperandsRebuild.evTick
  | evAdcDone sample => exact Laws.OperandsRebuild.evAdcDone sample
  | evNvReady => exact Laws.OperandsRebuild.evNvReady
  | evSerRx byte => exact Laws.OperandsRebuild.evSerRx byte
  | evSerTxc => exact Laws.OperandsRebuild.evSerTxc
  | evExt line => exact Laws.OperandsRebuild.evExt line

/-- Decoding undoes encoding (R81, R86). -/
theorem decode_encode {p : Config} {i : Instr} (h : i.wf p = true) : decode p (encode i) = .ok i := by
  obtain ⟨hbuild, hunused⟩ := operandsRebuild i
  exact decode_eq_ok (op := i.opcode) (by simp [encode]) (by simp [encode]) (by simpa [encode] using hunused)
    (by simpa [encode] using hbuild) h

theorem boolOperand_word {w : Word} {on : Bool} (h : boolOperand w = some on) : (if on then 1 else 0) = w := by
  unfold boolOperand at h
  split at h
  next h0 => cases h; exact h0.symm
  · split at h
    next h1 => cases h; exact h1.symm
    · cases h

theorem lineOperand_word {w : Word} {l : Line} (h : lineOperand w = some l) : lineWord l = w := by
  unfold lineOperand at h
  split at h
  next h0 => cases h; exact h0.symm
  · split at h
    next h1 => cases h; exact h1.symm
    · cases h

theorem byteOperand_word {w : Word} {b : Byte} (h : byteOperand w = some b) : b.setWidth 32 = w := by
  unfold byteOperand at h
  split at h
  next hle =>
    cases h
    apply BitVec.eq_of_toNat_eq
    simp only [BitVec.toNat_setWidth, BitVec.extractLsb'_toNat]
    omega
  · cases h

/-- An instruction built from operand words has these words, the unused ones being 0 (R82, R89). -/
theorem build_operands {op : Opcode} {a b c : Word} {i : Instr} (h : op.build a b c = some i)
    (hu : unusedWordsZero op.format a b c = true) : i.operandA = a ∧ i.operandB = b ∧ i.operandC = c := by
  cases op <;>
    simp only [Opcode.build, Option.map_eq_some_iff, Option.some.injEq, Opcode.format, unusedWordsZero,
      Bool.and_eq_true, beq_iff_eq] at h hu
  case adcPower =>
    obtain ⟨⟨on, hon, rfl⟩, rfl, rfl⟩ := And.intro h hu
    exact ⟨boolOperand_word hon, rfl, rfl⟩
  case serPushTx | evSerRx =>
    obtain ⟨⟨byte, hbyte, rfl⟩, rfl, rfl⟩ := And.intro h hu
    exact ⟨byteOperand_word hbyte, rfl, rfl⟩
  case evExt =>
    obtain ⟨⟨l, hl, rfl⟩, rfl, rfl⟩ := And.intro h hu
    exact ⟨lineOperand_word hl, rfl, rfl⟩
  case extBind =>
    obtain ⟨l, hl, rfl⟩ := h
    exact ⟨lineOperand_word hl, rfl, hu.symm⟩
  all_goals
    subst h
    simp [Instr.operandA, Instr.operandB, Instr.operandC, hu]

theorem frame_ext_iff {F G : Frame} :
    F = G ↔ opcodeByte F = opcodeByte G ∧ reservedField F = reservedField G ∧ wordA F = wordA G ∧
      wordB F = wordB G ∧ wordC F = wordC G := by
  constructor
  · rintro rfl
    exact ⟨rfl, rfl, rfl, rfl, rfl⟩
  · rintro ⟨hop, hres, ha, hb, hc⟩
    rw [frame_fields F, frame_fields G, hop, hres, ha, hb, hc]

/-- Encoding undoes decoding: a frame that decodes has no field its instruction does not fix (R81, R82, R86). -/
theorem encode_of_decode {p : Config} {F : Frame} {i : Instr} (h : decode p F = .ok i) : encode i = F := by
  obtain ⟨op, hres, hcode, hunused, hbuild, -⟩ := decode_ok h
  obtain ⟨ha, hb, hc⟩ := build_operands hbuild hunused
  rw [frame_ext_iff]
  simp [encode, Machine.build_opcode hbuild, hres, hcode, ha, hb, hc]

/-! ### The rows of the opcode table -/

/-- Ones over the operand words a format does not use, in the order A, B, C (R82). -/
def Format.unusedMask : Format → Word × Word × Word
  | .n => (BitVec.allOnes 32, BitVec.allOnes 32, BitVec.allOnes 32)
  | .a => (0, BitVec.allOnes 32, BitVec.allOnes 32)
  | .ab => (0, 0, BitVec.allOnes 32)
  | .abc => (0, 0, 0)

theorem unusedWordsZero_iff {fmt : Format} {a b c : Word} :
    unusedWordsZero fmt a b c = true ↔
      a &&& fmt.unusedMask.1 = 0 ∧ b &&& fmt.unusedMask.2.1 = 0 ∧ c &&& fmt.unusedMask.2.2 = 0 := by
  cases fmt <;> simp [unusedWordsZero, Format.unusedMask, and_assoc, -BitVec.reduceAllOnes]

theorem opcodeByte_and (F G : Frame) : opcodeByte (F &&& G) = opcodeByte F &&& opcodeByte G := BitVec.extractLsb'_and
theorem reservedField_and (F G : Frame) : reservedField (F &&& G) = reservedField F &&& reservedField G :=
  BitVec.extractLsb'_and
theorem wordA_and (F G : Frame) : wordA (F &&& G) = wordA F &&& wordA G := BitVec.extractLsb'_and
theorem wordB_and (F G : Frame) : wordB (F &&& G) = wordB F &&& wordB G := BitVec.extractLsb'_and
theorem wordC_and (F G : Frame) : wordC (F &&& G) = wordC F &&& wordC G := BitVec.extractLsb'_and

/-- A row's mask covers the opcode, the reserved field and the operand words its format does not use. -/
theorem tableMask_fields (op : Opcode) :
    opcodeByte op.tableMask = BitVec.allOnes 8 ∧ reservedField op.tableMask = BitVec.allOnes 24 ∧
      wordA op.tableMask = op.format.unusedMask.1 ∧ wordB op.tableMask = op.format.unusedMask.2.1 ∧
      wordC op.tableMask = op.format.unusedMask.2.2 := by
  cases op <;> decide

/-- A row's match is its opcode, and 0 elsewhere. -/
theorem tableMatch_eq_frameOf (op : Opcode) : op.tableMatch = frameOf op 0 0 0 := by
  cases op <;> decide

/-- A frame fits a row exactly when it passes the first three tests of R86 with that row's opcode. -/
theorem fits_row_iff {F : Frame} {op : Opcode} :
    F &&& op.tableMask = op.tableMatch ↔
      opcodeByte F = op.code ∧ reservedField F = 0 ∧
        unusedWordsZero op.format (wordA F) (wordB F) (wordC F) = true := by
  obtain ⟨hop, hres, ha, hb, hc⟩ := tableMask_fields op
  rw [tableMatch_eq_frameOf, frame_ext_iff, opcodeByte_and, reservedField_and, wordA_and, wordB_and, wordC_and, hop,
    hres, ha, hb, hc, BitVec.and_allOnes, BitVec.and_allOnes, unusedWordsZero_iff]
  simp

/-! ### The bytes of a frame -/

/-- The digits of `n` in base 256, least significant first, put together again. -/
theorem foldr_bytes (k n : Nat) :
    ((List.range k).map (fun i => n / 256 ^ i % 256)).foldr (fun b m => b + 256 * m) 0 = n % 256 ^ k := by
  induction k generalizing n with
  | zero => simp [Nat.mod_one]
  | succ k ih =>
    have htail : (fun i => n / 256 ^ i % 256) ∘ Nat.succ = fun i => n / 256 / 256 ^ i % 256 := by
      funext i
      simp [Nat.pow_succ', Nat.div_div_eq_div_mul]
    rw [List.range_succ_eq_map, List.map_cons, List.map_map, htail, List.foldr_cons, ih, Nat.pow_succ',
      Nat.mod_mul]
    simp

@[simp] theorem length_frameBytes (F : Frame) : (frameBytes F).length = 16 := by simp [frameBytes]

theorem getElem?_frameBytes (F : Frame) {k : Nat} (hk : k < 16) :
    (frameBytes F)[k]? = some (F.extractLsb' (8 * k) 8) := by
  simp [frameBytes, hk]

/-- A byte of an operand word is the byte of the frame at the word's place (R81, R83). -/
theorem extract_byte_of_word (F : Frame) (start : Nat) {k : Nat} (hk : k < 4) :
    (F.extractLsb' start 32).extractLsb' (8 * k) 8 = F.extractLsb' (start + 8 * k) 8 := by
  apply BitVec.eq_of_getLsbD_eq
  intro i hi
  have hlt : 8 * k + i < 32 := by omega
  simp [BitVec.getLsbD_extractLsb', hlt, Nat.add_assoc]

@[simp] theorem frameOfBytes_frameBytes (F : Frame) : frameOfBytes (frameBytes F) = F := by
  have hbytes : ((frameBytes F).map BitVec.toNat) = (List.range 16).map (fun i => F.toNat / 256 ^ i % 256) := by
    simp [frameBytes, Function.comp_def, BitVec.extractLsb'_toNat, Nat.shiftRight_eq_div_pow, Nat.pow_mul]
  have hvalue : (frameBytes F).foldr (fun b n => b.toNat + 256 * n) 0 = F.toNat := by
    rw [← List.foldr_map (f := BitVec.toNat) (g := fun b n => b + 256 * n), hbytes, foldr_bytes]
    exact Nat.mod_eq_of_lt F.isLt
  rw [frameOfBytes, hvalue, BitVec.ofNat_toNat, BitVec.setWidth_eq]

/-- The first 16 bytes of a list are decoded as a frame, the rest is handed back (R83). -/
theorem decodeBytes_frameBytes (p : Config) (F : Frame) (rest : List Byte) :
    decodeBytes p (frameBytes F ++ rest) = (decode p F).map (·, rest) := by
  have htake : (frameBytes F ++ rest).take 16 = frameBytes F := List.take_left' (length_frameBytes F)
  have hdrop : (frameBytes F ++ rest).drop 16 = rest := List.drop_left' (length_frameBytes F)
  cases h : decode p F <;> simp [decodeBytes, htake, hdrop, h, Except.map]

/-! ### Opcodes and illegal frames -/

theorem ofCode_eq_none_iff {b : Byte} :
    Opcode.ofCode b = none ↔ b.toNat ∉ Opcode.all.map (fun op => op.code.toNat) := by
  simp [Opcode.ofCode, ← BitVec.toNat_inj]

end Sys2Proof

namespace Sys2Proof.Machine

/-- A frame that does not decode is answered `ILLEGAL` (R86, R90). -/
theorem takeFrame_illegal {ctx : Context} {F : Frame} {s : State} {e : Illegal} (h : decode s.cfg F = .error e) :
    takeFrame ctx F s =
      .next { s with answers := s.answers ++ [{ op := none, status := .illegal, res := 0 }] } := by
  simp [takeFrame, h, answerIllegal, Status.failRes]

/-! ### The statements -/

/-- Settles O1: the operand words of every instruction rebuild it, and the decoder finds them in the frame. -/
theorem decodeUndoesEncode : Obligations.DecodeUndoesEncode := fun _ _ h => decode_encode h

/-- Settles O2: the fields that the decoder tests and reads are the whole frame. -/
theorem decodedFrameIsItsEncoding : Obligations.DecodedFrameIsItsEncoding :=
  fun _ _ _ h => ⟨encode_of_decode h, wf_of_decode h⟩

/-- Settles O3: the bytes are the frame's digits in base 256. -/
theorem framesSerialiseLittleEndian : Obligations.FramesSerialiseLittleEndian := by
  intro F
  refine ⟨length_frameBytes F, fun k hk => getElem?_frameBytes F hk, getElem?_frameBytes F (by decide),
    fun k hk => ⟨?_, ?_, ?_⟩, frameOfBytes_frameBytes F, fun p rest i => ?_⟩
  · rw [getElem?_frameBytes F (by omega), wordA, extract_byte_of_word F _ hk, Nat.mul_add]
  · rw [getElem?_frameBytes F (by omega), wordB, extract_byte_of_word F _ hk, Nat.mul_add]
  · rw [getElem?_frameBytes F (by omega), wordC, extract_byte_of_word F _ hk, Nat.mul_add]
  · rw [decodeBytes_frameBytes]
    cases decode p F <;> simp [Except.map]

/-- Settles O4: to fit a row is to pass the first three tests of R86 with its opcode; only the range test is left. -/
theorem tableRowsSelectInstructions : Obligations.TableRowsSelectInstructions := by
  intro p F op
  rw [fits_row_iff]
  constructor
  · rintro ⟨hcode, hres, hunused⟩
    by_cases hlegal : ∃ i, op.build (wordA F) (wordB F) (wordC F) = some i ∧ i.wf p = true
    · obtain ⟨i, hbuild, hwf⟩ := hlegal
      exact .inl ⟨i, decode_eq_ok hres hcode hunused hbuild hwf, build_opcode hbuild⟩
    · refine .inr ⟨decode_eq_operandRange hres hcode hunused fun i hbuild => ?_, hcode⟩
      exact Bool.eq_false_iff.mpr fun hwf => hlegal ⟨i, hbuild, hwf⟩
  · rintro (⟨i, hdecode, rfl⟩ | ⟨hdecode, hop⟩)
    · obtain ⟨op, hres, hcode, hunused, hbuild, -⟩ := decode_ok hdecode
      rw [build_opcode hbuild]
      exact ⟨hcode.symm, hres, hunused⟩
    · obtain ⟨op', hres, hcode, hunused⟩ := decode_operandRange hdecode
      obtain rfl := code_injective (hcode.trans hop)
      exact ⟨hop, hres, hunused⟩

/-- Settles O6: the reserved values are the gaps between the listed codes, and a frame that decodes would be the
encoding of a well-formed instruction. -/
theorem illegalFrameChangesNothing : Obligations.IllegalFrameChangesNothing := by
  refine ⟨fun b => ?_, fun s ctx F rest hin hw hno => ?_⟩
  · rw [ofCode_eq_none_iff]
    simp [Opcode.all, Opcode.code]
    omega
  · cases hd : decode s.cfg F with
    | ok i => exact absurd ⟨i, wf_of_decode hd, encode_of_decode hd⟩ hno
    | error e => exact (step_frame hin hw).trans (takeFrame_illegal hd)

/-- Settles O5: `decode` evaluated at each of the thirteen frames. -/
theorem specFramesDecodeAsWritten : Obligations.SpecFramesDecodeAsWritten := by
  unfold Obligations.SpecFramesDecodeAsWritten
  decide

end Sys2Proof.Machine
end

section
/-! SUPPORT. The drains of spec/30_encoding.md R93: an event repeated until it answers `NOT_ENABLED`. -/

namespace Sys2Proof.Machine

/-! ### Repeating an event -/

theorem lastNotEnabled_of_answers {s : State} {before : List Answer} {a : Answer} (h : s.answers = before ++ [a]) :
    lastNotEnabled s = (a.status == .notEnabled) := by simp [lastNotEnabled, h]

theorem lastNotEnabled_reply (s : State) (op : Opcode) (st : Status) (res : Word) :
    lastNotEnabled (s.reply op st res) = (st == .notEnabled) := lastNotEnabled_of_answers (reply_answers s op st res)

/-- The event `i` works off what `left` counts, from states that satisfy `P`: with none left it is not enabled, and
otherwise it leaves less. -/
structure WorksOff (i : Instr) (P : State → Prop) (left : State → Nat) : Prop where
  disabled : ∀ s, P s → left s = 0 → exec i s = .next (s.reply i.opcode .notEnabled 0)
  enabled : ∀ s, P s → left s ≠ 0 → ∃ t : State, exec i s = .next t ∧
    t.answers = s.answers ++ [{ op := some i.opcode, status := .ok, res := 0 }] ∧ P t ∧ left t < left s

/-- Repeating such an event is executing it `k` times with the answer `OK` and once more with `NOT_ENABLED`, for some
`k`; nothing is left then. -/
theorem execUntilNotEnabled_of_worksOff {i : Instr} {P : State → Prop} {left : State → Nat} (hi : WorksOff i P left)
    {fuel : Nat} {s : State} (hs : P s) (hfuel : left s < fuel) :
    ∃ k u, P u ∧ left u = 0 ∧
      u.answers = s.answers ++ List.replicate k { op := some i.opcode, status := .ok, res := 0 } ∧
      execUntilNotEnabled i fuel s = .next (u.reply i.opcode .notEnabled 0) ∧
      execAll (List.replicate (k + 1) i) s = .next (u.reply i.opcode .notEnabled 0) := by
  induction fuel generalizing s with
  | zero => omega
  | succ fuel ih =>
    by_cases hleft : left s = 0
    · have hstop := hi.disabled s hs hleft
      exact ⟨0, s, hs, hleft, by simp, execUntil_stop hstop (lastNotEnabled_reply _ _ _ _), execAll_cons hstop⟩
    · obtain ⟨t, hgo, hanswers, ht, hless⟩ := hi.enabled s hs hleft
      obtain ⟨k, u, hu, hnone, hall, huntil, hexec⟩ := ih ht (by omega)
      refine ⟨k + 1, u, hu, hnone, ?_, ?_, ?_⟩
      · rw [hall, hanswers, List.append_assoc, List.singleton_append, List.replicate_succ]
      · rw [execUntil_go hgo (lastNotEnabled_of_answers hanswers), huntil]
      · rw [List.replicate_succ, execAll_cons hgo, hexec]

/-! ### DRAIN_TX -/

theorem exec_evSerTxc_disabled {s : State} (h : serTxcEnabled s = false) :
    exec .evSerTxc s = .next (s.reply .evSerTxc .notEnabled 0) := by simp [exec, execEvSerTxc, h, Status.failRes]

/-- The transmission ends where no byte is queued (R167). -/
theorem exec_evSerTxc_end {s : State} (h : serTxcEnabled s = true) (hpop : s.ser.tx.pop = none) :
    exec .evSerTxc s = .next (State.reply { s with ser := { s.ser with txBusy := false } } .evSerTxc .ok 0) := by
  simp [exec, execEvSerTxc, h, hpop]

/-- The next queued byte is sent (R167). -/
theorem exec_evSerTxc_send {s : State} {b : Byte} {q : Queue} (h : serTxcEnabled s = true)
    (hpop : s.ser.tx.pop = some (b, q)) :
    exec .evSerTxc s =
      .next ((State.emit { s with ser := { s.ser with tx := q } } (.txByte b)).reply .evSerTxc .ok 0) := by
  simp [exec, execEvSerTxc, h, hpop]

/-- A pop takes one byte from what a queue is seen to hold (R30). -/
theorem fill_of_pop {q q' : Queue} {b : Byte} (h : q.pop = some (b, q')) : q'.fill + 1 = q.fill := by
  obtain ⟨hne, -, hout, hinp, -⟩ := pop_isPop h
  have hne := BitVec.toNat_inj.not.mpr hne
  simp only [Queue.fill, BitVec.toNat_sub, hinp]
  omega

/-- How many `EV_SER_TXC` are enabled one after the other: one for each queued byte, and one that ends the
transmission (R167). -/
def txEventsLeft (s : State) : Nat := if serTxcEnabled s then s.ser.tx.fill + 1 else 0

theorem txEventsLeft_eq_zero {s : State} : txEventsLeft s = 0 ↔ serTxcEnabled s = false := by simp [txEventsLeft]

theorem txEventsLeft_of_enabled {s : State} (h : serTxcEnabled s = true) : txEventsLeft s = s.ser.tx.fill + 1 :=
  if_pos h

theorem evSerTxc_worksOff : WorksOff .evSerTxc (fun _ => True) txEventsLeft where
  disabled _ _ hleft := exec_evSerTxc_disabled (txEventsLeft_eq_zero.mp hleft)
  enabled s _ hleft := by
    have henabled : serTxcEnabled s = true := by simpa [txEventsLeft_eq_zero] using hleft
    cases hpop : s.ser.tx.pop with
    | none =>
      refine ⟨_, exec_evSerTxc_end henabled hpop, rfl, trivial, ?_⟩
      rw [txEventsLeft_eq_zero.mpr (by simp [serTxcEnabled])]
      exact Nat.pos_of_ne_zero hleft
    | some popped =>
      obtain ⟨b, q⟩ := popped
      refine ⟨_, exec_evSerTxc_send henabled hpop, rfl, trivial,
        (txEventsLeft_of_enabled (by exact henabled)).trans_lt ?_⟩
      rw [txEventsLeft_of_enabled henabled, ← fill_of_pop hpop]
      exact Nat.lt_succ_self _

/-! ### DRAIN_NV -/

theorem exec_evNvReady_disabled {s : State} (h : nvReadyEnabled s = false) :
    exec .evNvReady s = .next (s.reply .evNvReady .notEnabled 0) := by simp [exec, execEvNvReady, h, Status.failRes]

/-- The job ends where no byte is left (R142). -/
theorem exec_evNvReady_end {s : State} (h : nvReadyEnabled s = true) (hrem : s.nv.rem = 0) :
    exec .evNvReady s =
      .next (State.reply { s with nv := { s.nv with ie := false, busy := false } } .evNvReady .ok 0) := by
  simp [exec, execEvNvReady, h, hrem]

/-- One byte is written, and one less is left (R142). -/
theorem exec_evNvReady_write {s : State} (h : nvReadyEnabled s = true) (hrem : s.nv.rem ≠ 0)
    (hwithin : s.nv.addr.toNat < s.cfg.nvSize) :
    ∃ t : State, exec .evNvReady s = .next t ∧
      t.answers = s.answers ++ [{ op := some .evNvReady, status := .ok, res := 0 }] ∧
      t.nv.ie = s.nv.ie ∧ t.nv.rem = s.nv.rem - 1 := by
  simp only [exec, execEvNvReady, h, hrem, Nat.not_le.mpr hwithin, if_true, if_false]
  exact ⟨_, rfl, rfl, rfl, rfl⟩

/-- How many `EV_NV_READY` are enabled one after the other: one for each byte of the job, and one that ends it
(R142). -/
def nvEventsLeft (s : State) : Nat := if nvReadyEnabled s then s.nv.rem.toNat + 1 else 0

theorem nvEventsLeft_eq_zero {s : State} : nvEventsLeft s = 0 ↔ nvReadyEnabled s = false := by simp [nvEventsLeft]

theorem nvEventsLeft_of_enabled {s : State} (h : nvReadyEnabled s = true) : nvEventsLeft s = s.nv.rem.toNat + 1 :=
  if_pos h

/-- A job with a byte left has it within the store (R28, R141). -/
theorem nv_addr_lt {s : State} (hs : Inv s) (h : nvReadyEnabled s = true) (hrem : s.nv.rem ≠ 0) :
    s.nv.addr.toNat < s.cfg.nvSize := by
  obtain ⟨hbusy, -, -, -, hjob, -⟩ := inv_nv hs
  obtain ⟨hfits, -⟩ := hjob (hbusy ▸ h)
  have hpos := toNat_pos_of_ne hrem
  omega

theorem evNvReady_worksOff : WorksOff .evNvReady Inv nvEventsLeft where
  disabled _ _ hleft := exec_evNvReady_disabled (nvEventsLeft_eq_zero.mp hleft)
  enabled s hs hleft := by
    have henabled : nvReadyEnabled s = true := by simpa [nvEventsLeft_eq_zero] using hleft
    by_cases hrem : s.nv.rem = 0
    · have hend := exec_evNvReady_end henabled hrem
      refine ⟨_, hend, rfl, execEvNvReady_inv hs _ hend, ?_⟩
      rw [nvEventsLeft_eq_zero.mpr (by simp [nvReadyEnabled])]
      exact Nat.pos_of_ne_zero hleft
    · obtain ⟨t, hwrite, hanswers, hie, hless⟩ := exec_evNvReady_write henabled hrem (nv_addr_lt hs henabled hrem)
      refine ⟨t, hwrite, hanswers, execEvNvReady_inv hs t hwrite, ?_⟩
      have hpred : (s.nv.rem - 1).toNat = s.nv.rem.toNat - 1 :=
        BitVec.toNat_sub_of_le (BitVec.le_def.mpr (toNat_pos_of_ne hrem))
      rw [nvEventsLeft_of_enabled (hie.trans henabled), nvEventsLeft_of_enabled henabled, hless, hpred,
        Nat.sub_add_cancel (toNat_pos_of_ne hrem)]
      exact Nat.lt_succ_self _

/-! ### The statement -/

/-- Settles O60: four expansions are the definition's own; each drain works off what is left within its fuel. -/
theorem pseudoOperationsRunTheirExpansions : Obligations.PseudoOperationsRunTheirExpansions := by
  refine ⟨fun _ _ => rfl, fun _ _ => rfl, fun _ _ => rfl, fun _ _ _ => rfl, fun s => ?_, fun s hs => ?_⟩
  · have hfuel : txEventsLeft s < s.ser.tx.fill + 2 := by unfold txEventsLeft; split <;> omega
    obtain ⟨k, u, -, hnone, hanswers, huntil, hexec⟩ :=
      execUntilNotEnabled_of_worksOff evSerTxc_worksOff trivial hfuel
    exact ⟨k, _, huntil, hexec, by rw [reply_answers, hanswers]; rfl, txEventsLeft_eq_zero.mp hnone⟩
  · have hfuel : nvEventsLeft s < s.nv.rem.toNat + 2 := by unfold nvEventsLeft; split <;> omega
    obtain ⟨k, u, hu, hnone, hanswers, huntil, hexec⟩ :=
      execUntilNotEnabled_of_worksOff evNvReady_worksOff hs hfuel
    obtain ⟨hbusy, -⟩ := inv_nv hu
    exact ⟨k, _, huntil, hexec, by rw [reply_answers, hanswers]; rfl,
      hbusy.symm.trans (nvEventsLeft_eq_zero.mp hnone)⟩

end Sys2Proof.Machine
end

section
/-! SUPPORT. The Tick Source (spec/40_tick.md R110 to R113): what one tick does to the counters on either side of a
second, what `n` ticks do from any state, and the counters' closed form after `n` ticks from zero. -/

namespace Sys2Proof.Machine

/-! ### The operations, R110 to R112 -/

theorem exec_nowMs (s : State) : exec .nowMs s = .next (s.reply .nowMs .ok s.tick.ms) := rfl

theorem exec_nowS (s : State) : exec .nowS s = .next (s.reply .nowS .ok s.tick.sec) := rfl

theorem exec_evTick (s : State) :
    exec .evTick s = .next (State.reply { s with tick := s.tick.advance s.cfg } .evTick .ok 0) := rfl

/-! ### One tick, R112 -/

/-- Below `MS_PER_S` the count `sub` has room in its ten bits. -/
theorem toNat_sub_add_one {sub : BitVec 10} (h : sub.toNat < msPerS) : (sub + 1).toNat = sub.toNat + 1 := by
  rw [BitVec.toNat_add]
  exact Nat.mod_eq_of_lt (Nat.succ_lt_succ (h.trans (by decide)))

/-- The tick that completes a second. -/
theorem advance_at_second (p : Config) {t : TickSource} (h : t.sub.toNat + 1 = msPerS) :
    t.advance p = { ms := wrap p.wMs (t.ms.toNat + 1), sub := 0, sec := wrap p.wS (t.sec.toNat + 1) } :=
  if_pos ((toNat_sub_add_one (h ▸ Nat.lt_succ_self _)).trans h)

/-- A tick within a second. -/
theorem advance_within_second (p : Config) {t : TickSource} (h : t.sub.toNat + 1 < msPerS) :
    t.advance p = { t with ms := wrap p.wMs (t.ms.toNat + 1), sub := t.sub + 1 } :=
  if_neg (by rw [toNat_sub_add_one (Nat.lt_of_succ_lt h)]; exact h.ne)

/-- `ms` counts every tick, at a second's end or not. -/
theorem advance_ms (p : Config) (t : TickSource) : (t.advance p).ms = wrap p.wMs (t.ms.toNat + 1) := by
  unfold TickSource.advance
  dsimp only
  split <;> rfl

/-! ### Many ticks, R113 -/

/-- `n` ticks are `n` times the counters' own update, with as many answers, and nothing else. -/
theorem execAll_evTicks (n : Nat) (s : State) :
    execAll (List.replicate n .evTick) s = .next { s with
      tick := (TickSource.advance s.cfg)^[n] s.tick
      answers := s.answers ++ List.replicate n { op := some .evTick, status := .ok, res := 0 } } := by
  induction n generalizing s with
  | zero => simp [execAll]
  | succ n ih =>
    rw [List.replicate_succ, execAll_cons (exec_evTick s), ih, List.replicate_succ, List.append_cons]
    rfl

/-- The counters `n` ticks after zero (R113). -/
def ticksFromZero (p : Config) (n : Nat) : TickSource :=
  { ms := wrap p.wMs n, sub := BitVec.ofNat 10 (n % 1000), sec := wrap p.wS (n / 1000) }

theorem ticksFromZero_zero (p : Config) : ticksFromZero p 0 = { ms := 0, sub := 0, sec := 0 } := by
  simp [ticksFromZero, wrap]

theorem ticksFromZero_sub (p : Config) (n : Nat) : (ticksFromZero p n).sub.toNat = n % 1000 := by
  have hlt : n % 1000 < 1000 := Nat.mod_lt _ (by decide)
  exact Nat.mod_eq_of_lt (hlt.trans (by decide))

/-- Counting on from a counter that has wrapped is counting on from what it counts. -/
theorem wrap_succ {w : Nat} (hw : w ≤ 32) (n : Nat) : wrap w ((wrap w n).toNat + 1) = wrap w (n + 1) := by
  rw [toNat_wrap hw, wrap, wrap, Nat.mod_add_mod]

/-- One more tick: `n + 1` completes a second where `n % 1000` is 999, and stays within it elsewhere. -/
theorem advance_ticksFromZero {p : Config} (hv : p.valid) (n : Nat) :
    (ticksFromZero p n).advance p = ticksFromZero p (n + 1) := by
  have hsub := ticksFromZero_sub p n
  have hms : wrap p.wMs ((ticksFromZero p n).ms.toNat + 1) = wrap p.wMs (n + 1) := wrap_succ (valid_wMs hv) n
  by_cases hsecond : n % 1000 + 1 = 1000
  · have hmod : (n + 1) % 1000 = 0 := by omega
    have hdiv : (n + 1) / 1000 = n / 1000 + 1 := by omega
    have hsec : wrap p.wS ((ticksFromZero p n).sec.toNat + 1) = wrap p.wS (n / 1000 + 1) :=
      wrap_succ (valid_wS hv) _
    rw [advance_at_second p (hsub ▸ hsecond), hms, hsec, ticksFromZero, hmod, hdiv]
    rfl
  · have hwithin : n % 1000 + 1 < 1000 := by omega
    have hmod : (n + 1) % 1000 = n % 1000 + 1 := by omega
    have hdiv : (n + 1) / 1000 = n / 1000 := by omega
    rw [advance_within_second p (hsub ▸ hwithin), hms, ticksFromZero, ticksFromZero, hmod, hdiv, BitVec.ofNat_add]
    rfl

theorem advance_iterate_zero {p : Config} (hv : p.valid) (n : Nat) :
    (TickSource.advance p)^[n] { ms := 0, sub := 0, sec := 0 } = ticksFromZero p n := by
  induction n with
  | zero => exact (ticksFromZero_zero p).symm
  | succ n ih => rw [Function.iterate_succ_apply', ih, advance_ticksFromZero hv]

/-! ### The statements -/

/-- Settles O15: each operation is its answer alone. -/
theorem nowAnswersTheCounters : Obligations.NowAnswersTheCounters :=
  ⟨by decide, by decide, fun s => ⟨exec_nowMs s, exec_nowS s⟩⟩

/-- Settles O16: the counters' own update, on either side of a second. -/
theorem tickAdvancesTheCounters : Obligations.TickAdvancesTheCounters := by
  refine ⟨by decide, fun s hv hsub => ⟨_, exec_evTick s, ?_, fun hsecond => ?_, fun hwithin => ?_, rfl⟩⟩
  · rw [reply_tick, advance_ms, toNat_wrap (valid_wMs hv)]
  · rw [reply_tick, advance_at_second _ hsecond]
    exact ⟨rfl, toNat_wrap (valid_wS hv)⟩
  · rw [reply_tick, advance_within_second _ (lt_of_le_of_ne hsub hwithin)]
    exact ⟨toNat_sub_add_one hsub, rfl⟩

/-- Settles O17: `n` ticks iterate the counters' update, whose `n`-th value from zero has a closed form. -/
theorem secondsCountThousandTicks : Obligations.SecondsCountThousandTicks := by
  intro s n hv hzero
  refine ⟨_, execAll_evTicks n s, ?_⟩
  rw [hzero, advance_iterate_zero hv]
  exact ⟨toNat_wrap (valid_wMs hv), ticksFromZero_sub _ n, toNat_wrap (valid_wS hv)⟩

end Sys2Proof.Machine
end

section
/-! SUPPORT. The Averaging Sampler (spec/41_sampler.md R120 to R125): a ring written at its index and read from it on,
which is both the rotation of the channels and the buffer of one channel, and what rounds of conversions leave in it. -/

namespace Sys2Proof.Machine

/-! ### Rings -/

/-- A write at the index of a ring drops the foremost entry and appends the new one, seen from the next index on. -/
theorem rotate_set_succ {α : Type} {l : List α} {i : Nat} (hi : i < l.length) (x : α) :
    (l.set i x).rotate ((i + 1) % l.length) = (l.rotate i).tail ++ [x] := by
  have hmod := List.rotate_mod (l.set i x) (i + 1)
  rw [List.length_set] at hmod
  rw [hmod, List.rotate_eq_drop_append_take (by simpa using hi), List.rotate_eq_drop_append_take hi.le,
    List.drop_set_of_lt (Nat.lt_succ_self i), List.take_add_one, List.take_set_of_le (le_refl i),
    List.getElem?_set_self hi, List.drop_eq_getElem_cons hi, List.cons_append, List.tail_cons, List.append_assoc,
    Option.toList_some]

/-! ### The buffer of a channel, R121 and R123 -/

/-- The eight readings of a channel, oldest first: its buffer from the write index on. -/
def Channel.recent (c : Channel) : List Word := c.slots.toList.rotate c.idx.toNat

@[simp] theorem Channel.length_recent (c : Channel) : c.recent.length = 8 := by simp [Channel.recent]

theorem Channel.store_idx (c : Channel) (v : Word) : (c.store v).idx = c.idx + 1 := rfl

theorem Channel.store_idx_toNat (c : Channel) (v : Word) : (c.store v).idx.toNat = (c.idx.toNat + 1) % 8 := by
  simp [Channel.store_idx, BitVec.toNat_add]

theorem Channel.store_slots (c : Channel) (v : Word) (k : Nat) (hk : k < 8) :
    (c.store v).slots[k] = if k = c.idx.toNat then v else c.slots[k] := by
  simp [Channel.store, Vector.getElem_set, eq_comm]

/-- The oldest reading makes room for the new one. -/
theorem Channel.recent_store (c : Channel) (v : Word) : (c.store v).recent = c.recent.tail ++ [v] := by
  have hring := rotate_set_succ (l := c.slots.toList) (i := c.idx.toNat) (by simpa using c.idx.isLt) v
  rw [Vector.length_toList] at hring
  rw [Channel.recent, Channel.store_idx_toNat, Channel.store, Vector.toList_set, hring, Channel.recent]

/-- Readings stored one after the other are appended, and as many of the oldest are dropped. -/
theorem Channel.recent_foldl_store (vs : List Word) (c : Channel) :
    (vs.foldl Channel.store c).recent = (c.recent ++ vs).drop vs.length := by
  induction vs generalizing c with
  | nil => simp
  | cons v vs ih =>
    have hne : c.recent ≠ [] := List.ne_nil_of_length_pos (by simp)
    rw [List.foldl_cons, ih, Channel.recent_store, List.append_assoc, List.singleton_append, List.length_cons,
      ← List.tail_append_of_ne_nil hne, List.drop_tail]

/-- The exact sum of eight words divided by 8 is a word (R121). -/
theorem Channel.toNat_mean (c : Channel) : c.mean.toNat = (c.slots.toList.map BitVec.toNat).sum / 8 := by
  have hsum : (c.slots.toList.map BitVec.toNat).sum ≤ 8 * (2 ^ 32 - 1) := by
    have hword : ∀ n ∈ c.slots.toList.map BitVec.toNat, n ≤ 2 ^ 32 - 1 := by
      simp only [List.forall_mem_map]
      exact fun w _ => Nat.le_sub_one_of_lt w.isLt
    simpa using List.sum_le_card_nsmul _ _ hword
  rw [Channel.mean, BitVec.toNat_ofNat]
  exact Nat.mod_eq_of_lt (by omega)

/-- The mean is that of the readings in any order, so in the order they came. -/
theorem Channel.toNat_mean_recent (c : Channel) : c.mean.toNat = (c.recent.map BitVec.toNat).sum / 8 := by
  rw [Channel.toNat_mean, Channel.recent, ((List.rotate_perm _ _).map _).sum_eq]

/-- Eight readings fill the buffer (R125). -/
theorem Channel.toNat_mean_foldl_store {vs : List Word} (hlen : vs.length = 8) (c : Channel) :
    (vs.foldl Channel.store c).mean.toNat = (vs.map BitVec.toNat).sum / 8 := by
  rw [Channel.toNat_mean_recent, Channel.recent_foldl_store, List.drop_left' (by simp [hlen])]

/-! ### The operations, R120 to R123 -/

theorem exec_adcStart_inflight {s : State} (h : s.adc.inflight = true) :
    exec .adcStart s = .refused .alreadyScanning := by simp [exec, execAdcStart, h]

theorem exec_adcStart_on {s : State} (hidle : s.adc.inflight = false) (hon : s.adc.on = true) :
    exec .adcStart s = .next ((State.emit { s with adc := { s.adc with ch := 0, inflight := true } }
      (.convert 0)).reply .adcStart .ok 0) := by simp [exec, execAdcStart, hidle, hon]

theorem exec_adcStart_off {s : State} (hidle : s.adc.inflight = false) (hoff : s.adc.on = false) :
    exec .adcStart s = .next (State.reply { s with adc := { s.adc with ch := 0 } } .adcStart .ok 0) := by
  simp [exec, execAdcStart, hidle, hoff]

theorem exec_adcRead {s : State} {ch : Word} {c : Channel} (h : s.adc.channels[ch.toNat]? = some c) :
    exec (.adcRead ch) s = .next (s.reply .adcRead .ok c.mean) := by simp [exec, execAdcRead, h]

theorem exec_evAdcDone_disabled {s : State} (h : adcDoneEnabled s = false) (v : Word) :
    exec (.evAdcDone v) s = .next (s.reply .evAdcDone .notEnabled 0) := by
  simp [exec, execEvAdcDone, h, Status.failRes]

/-- The selected channel takes the reading, and the conversion of the next one starts (R123). -/
theorem exec_evAdcDone_enabled {s : State} {c : Channel} (h : adcDoneEnabled s = true)
    (hc : s.adc.channels[s.adc.ch]? = some c) (v : Word) :
    exec (.evAdcDone v) s = .next ((State.emit { s with adc := s.adc.deposit s.cfg c v }
      (.convert ((s.adc.ch + 1) % s.cfg.nCh))).reply .evAdcDone .ok 0) := by
  simp [exec, execEvAdcDone, h, hc, Sampler.deposit]

theorem getElem?_deposit_self {a : Sampler} {c : Channel} (hc : a.channels[a.ch]? = some c) (p : Config) (v : Word) :
    (a.deposit p c v).channels[a.ch]? = some (c.store v) :=
  List.getElem?_set_self (List.getElem?_eq_some_iff.mp hc).1

theorem getElem?_deposit_of_ne {a : Sampler} {k : Nat} (hk : k ≠ a.ch) (p : Config) (c : Channel) (v : Word) :
    (a.deposit p c v).channels[k]? = a.channels[k]? := List.getElem?_set_ne hk.symm

/-! ### The rotation, R124 -/

/-- The channels in the order in which their turns come, the selected one first. -/
def Sampler.turns (a : Sampler) : List Channel := a.channels.rotate a.ch

/-- A conversion is under way, and there is a buffer for every channel (R24, R26). -/
structure Sampler.Scanning (p : Config) (a : Sampler) : Prop where
  length : a.channels.length = p.nCh
  selected : a.ch < p.nCh
  on : a.on = true
  inflight : a.inflight = true

theorem scanning_of_inv {s : State} (h : Inv s) (hflight : s.adc.inflight = true) : s.adc.Scanning s.cfg := by
  obtain ⟨hlen, -, hch, hon⟩ := inv_adc h
  exact ⟨hlen, hch, hon hflight, hflight⟩

section
variable {p : Config} {a : Sampler} (h : a.Scanning p)
include h

theorem length_turns : a.turns.length = p.nCh := (List.length_rotate _ _).trans h.length

/-- The channel `j` turns on from the selected one. -/
theorem getElem?_turns {j : Nat} (hj : j < p.nCh) : a.turns[j]? = a.channels[(a.ch + j) % p.nCh]? := by
  rw [Sampler.turns, List.getElem?_rotate (h.length ▸ hj), h.length, Nat.add_comm]

theorem scanning_deposit (c : Channel) (v : Word) : (a.deposit p c v).Scanning p where
  length := (List.length_set ..).trans h.length
  selected := Nat.mod_lt _ (Nat.zero_lt_of_lt h.selected)
  on := h.on
  inflight := h.inflight

/-- The channel whose turn it is takes the reading and goes to the end. -/
theorem turns_deposit (c : Channel) (v : Word) : (a.deposit p c v).turns = a.turns.tail ++ [c.store v] := by
  have hring := rotate_set_succ (h.length.symm ▸ h.selected) (c.store v)
  rwa [h.length] at hring

end

/-- One conversion while scanning. -/
theorem exec_evAdcDone_scanning {s : State} {c : Channel} {rest : List Channel} (h : s.adc.Scanning s.cfg)
    (hturns : s.adc.turns = c :: rest) (v : Word) :
    ∃ t : State, exec (.evAdcDone v) s = .next t ∧ t.cfg = s.cfg ∧ t.adc.Scanning s.cfg ∧
      t.adc.ch = (s.adc.ch + 1) % s.cfg.nCh ∧ t.adc.turns = rest ++ [c.store v] := by
  have hselected : s.adc.channels[s.adc.ch]? = some c := by
    rw [← List.head?_rotate (h.length.symm ▸ h.selected), ← Sampler.turns, hturns, List.head?_cons]
  have henabled : adcDoneEnabled s = true := by simp [adcDoneEnabled, h.on, h.inflight]
  exact ⟨_, exec_evAdcDone_enabled henabled hselected v, rfl, scanning_deposit h c v, rfl,
    (turns_deposit h c v).trans (by rw [hturns]; rfl)⟩

/-- Conversions one after the other: the channels whose turns come take one reading each and go to the end. -/
theorem execAll_evAdcDone {s : State} {vs : List Word} {cs rest : List Channel} (h : s.adc.Scanning s.cfg)
    (hturns : s.adc.turns = cs ++ rest) (hlen : cs.length = vs.length) :
    ∃ t : State, execAll (vs.map .evAdcDone) s = .next t ∧ t.cfg = s.cfg ∧ t.adc.Scanning s.cfg ∧
      t.adc.ch = (s.adc.ch + vs.length) % s.cfg.nCh ∧ t.adc.turns = rest ++ List.zipWith Channel.store cs vs := by
  induction vs generalizing s cs rest with
  | nil =>
    obtain rfl := List.eq_nil_of_length_eq_zero hlen
    exact ⟨s, rfl, rfl, h, (Nat.mod_eq_of_lt h.selected).symm, by simpa using hturns⟩
  | cons v vs ih =>
    obtain ⟨c, cs, rfl⟩ := List.exists_cons_of_length_eq_add_one hlen
    rw [List.cons_append] at hturns
    obtain ⟨t, hfirst, hcfg, ht, hch, hnext⟩ := exec_evAdcDone_scanning h hturns v
    rw [List.append_assoc] at hnext
    obtain ⟨u, hall, hcfg', hu, hch', hlast⟩ := ih (hcfg ▸ ht) hnext (Nat.succ.inj hlen)
    rw [hcfg] at hcfg' hu hch'
    refine ⟨u, (execAll_cons hfirst).trans hall, hcfg', hu, ?_, by simpa using hlast⟩
    rw [hch', hch, Nat.mod_add_mod, List.length_cons, Nat.add_assoc, Nat.add_comm 1]

/-- A whole round: every channel takes one reading, and the first channel is selected again. -/
theorem execAll_round {s : State} {vs : List Word} (h : s.adc.Scanning s.cfg) (hlen : vs.length = s.cfg.nCh) :
    ∃ t : State, execAll (vs.map .evAdcDone) s = .next t ∧ t.cfg = s.cfg ∧ t.adc.Scanning s.cfg ∧
      t.adc.ch = s.adc.ch ∧ t.adc.turns = List.zipWith Channel.store s.adc.turns vs := by
  obtain ⟨t, hall, hcfg, ht, hch, hturns⟩ :=
    execAll_evAdcDone h (List.append_nil _).symm ((length_turns h).trans hlen.symm)
  rw [hlen, Nat.add_mod_right, Nat.mod_eq_of_lt h.selected] at hch
  exact ⟨t, hall, hcfg, ht, hch, hturns⟩

/-! ### Several rounds, R125 -/

/-- What the channel `j` turns on from the first reads in `m` rounds of `n` conversions. -/
def readingsOf (n m j : Nat) (vs : List Word) : List Word := (List.range m).map (fun k => vs.getD (j + k * n) 0)

/-- The first round gives the first reading, and the later rounds the rest. -/
theorem readingsOf_succ (n m j : Nat) (vs : List Word) :
    readingsOf n (m + 1) j vs = vs.getD j 0 :: readingsOf n m j (vs.drop n) := by
  have hskip (k : Nat) : j + (k + 1) * n = n + (j + k * n) := by ring
  simp [readingsOf, List.range_succ_eq_map, Function.comp_def, hskip]

/-- After `m` whole rounds each channel has stored its readings one after the other. -/
theorem execAll_rounds {m : Nat} {s : State} {vs : List Word} (h : s.adc.Scanning s.cfg)
    (hlen : vs.length = m * s.cfg.nCh) :
    ∃ t : State, execAll (vs.map .evAdcDone) s = .next t ∧ t.adc.Scanning s.cfg ∧ t.adc.ch = s.adc.ch ∧
      ∀ (j : Nat) (c : Channel), s.adc.turns[j]? = some c →
        t.adc.turns[j]? = some ((readingsOf s.cfg.nCh m j vs).foldl Channel.store c) := by
  induction m generalizing s vs with
  | zero =>
    obtain rfl := List.eq_nil_of_length_eq_zero (by simpa using hlen)
    exact ⟨s, rfl, h, rfl, fun _ _ hc => hc⟩
  | succ m ih =>
    have hle : s.cfg.nCh ≤ vs.length := hlen ▸ Nat.le_mul_of_pos_left _ m.succ_pos
    have hrest : (vs.drop s.cfg.nCh).length = m * s.cfg.nCh := by simp [hlen, Nat.succ_mul]
    obtain ⟨t, hround, hcfg, ht, hch, hturns⟩ := execAll_round h (List.length_take_of_le hle)
    obtain ⟨u, hall, hu, hch', hlast⟩ := ih (vs := vs.drop s.cfg.nCh) (hcfg ▸ ht) (hcfg ▸ hrest)
    rw [hcfg] at hu hlast
    refine ⟨u, ?_, hu, hch'.trans hch, fun j c hc => ?_⟩
    · rw [← List.take_append_drop s.cfg.nCh vs, List.map_append, execAll_append _ hround, hall]
    · have hj : j < s.cfg.nCh := length_turns h ▸ (List.getElem?_eq_some_iff.mp hc).1
      have hreading : (vs.take s.cfg.nCh)[j]? = some (vs.getD j 0) := by
        rw [List.getElem?_take_of_lt hj, List.getD_eq_getElem?_getD, List.getElem?_eq_getElem (hj.trans_le hle),
          Option.getD_some]
      rw [readingsOf_succ, List.foldl_cons]
      exact hlast j _ (by simp [hturns, List.getElem?_zipWith, hc, hreading])

/-! ### The statements -/

/-- Settles O21: `deposit` seen through the channel's own store and the other channels. -/
theorem adcDoneStoresAndRotates : Obligations.AdcDoneStoresAndRotates :=
  ⟨fun _ => rfl, fun _ v => ⟨fun hoff => exec_evAdcDone_disabled hoff v, fun hon hflight c hc =>
    ⟨_, c.store v, exec_evAdcDone_enabled (by simp [adcDoneEnabled, hon, hflight]) hc v,
      getElem?_deposit_self hc _ v, Channel.store_slots c v, Channel.store_idx_toNat c v,
      fun _ hk => getElem?_deposit_of_ne hk _ c v, rfl, rfl, rfl, rfl⟩⟩⟩

/-- Settles O22: one round, read off the rotation channel by channel. -/
theorem rotationIsRoundRobin : Obligations.RotationIsRoundRobin := by
  intro s vs hs hflight hlen
  have h := scanning_of_inv hs hflight
  obtain ⟨t, hall, -, ht, hch, hturns⟩ := execAll_round h hlen
  refine ⟨t, hall, hch, ht.length.trans h.length.symm, fun j v hv => ?_⟩
  have hj : j < s.cfg.nCh := hlen ▸ (List.getElem?_eq_some_iff.mp hv).1
  have hc : s.adc.turns[j]? = some (s.adc.turns[j]'(length_turns h ▸ hj)) := List.getElem?_eq_getElem _
  have hc' := getElem?_turns ht hj
  rw [hch, hturns, List.getElem?_zipWith, hc, hv] at hc'
  exact ⟨_, _, (getElem?_turns h hj).symm.trans hc, hc'.symm, Channel.store_idx _ v, Channel.store_slots _ v⟩

/-- Settles O23: after eight rounds a channel's buffer holds its own eight readings and nothing else. -/
theorem meanOfLastEightReadings : Obligations.MeanOfLastEightReadings := by
  intro s vs hs hflight hlen
  have h := scanning_of_inv hs hflight
  obtain ⟨t, hall, ht, hch, hturns⟩ := execAll_rounds h hlen
  refine ⟨t, hall, fun j ch hj hsel => ?_⟩
  have hc := hturns j _ (List.getElem?_eq_getElem (length_turns h ▸ hj))
  rw [getElem?_turns ht hj, hch, ← hsel] at hc
  refine ⟨_, ?_, exec_adcRead hc⟩
  rw [Channel.toNat_mean_foldl_store (by simp [readingsOf]), readingsOf, List.map_map]
  rfl

/-- Settles O18: the three branches of the operation. -/
theorem adcStartBeginsRotation : Obligations.AdcStartBeginsRotation :=
  ⟨by decide, fun _ => ⟨exec_adcStart_inflight, exec_adcStart_on, exec_adcStart_off⟩⟩

/-- Settles O19: the mean fits a word, and the eight slots are the whole buffer. -/
theorem adcReadAnswersTruncatedMean : Obligations.AdcReadAnswersTruncatedMean := by
  refine ⟨fun _ => rfl, fun s ch c hc => ⟨c.mean, ?_, exec_adcRead hc⟩⟩
  rw [Channel.toNat_mean, ← List.ofFn_getElem (xs := c.slots.toList)]
  simp [List.ofFn_succ, Nat.add_assoc]

/-- Settles O20: on and off in turn. -/
theorem adcPowerSetsTheToggle : Obligations.AdcPowerSetsTheToggle := by
  refine ⟨by decide, by decide, fun s on => ?_⟩
  cases on
  · rfl
  · rfl

end Sys2Proof.Machine
end

section
/-! SUPPORT. The Async Non-Volatile Writer (spec/42_nvwriter.md R140 to R145): the operations branch by branch, the
state `n` bytes into a job or a transfer, and the run of each from its start to its end. -/

namespace Sys2Proof.Machine

/-! ### Runs of bytes in a memory -/

/-- The memory with byte `byte k` stored at address `addr k`, for `k = 0 .. n - 1` in that order. -/
def Memory.writeRun (m : Memory) (addr : Nat → Nat) (byte : Nat → Byte) : Nat → Memory
  | 0 => m
  | n + 1 => (m.writeRun addr byte n).write (addr n) (byte n)

section
variable {m : Memory} {addr : Nat → Nat} {byte : Nat → Byte} {n : Nat}

theorem Memory.wf_writeRun (hm : m.wf) : (m.writeRun addr byte n).wf := by
  induction n with
  | zero => exact hm
  | succ n ih => exact Memory.wf_write ih _ _

theorem Memory.read_writeRun_other {x : Nat} (hx : ∀ k, k < n → x ≠ addr k) :
    (m.writeRun addr byte n).read x = m.read x := by
  induction n with
  | zero => rfl
  | succ n ih =>
    exact (Memory.read_write_other _ _ (hx n n.lt_succ_self)).trans (ih fun k hk => hx k (hk.trans n.lt_succ_self))

/-- Where no later byte falls on the same address, a byte of the run is read back. -/
theorem Memory.read_writeRun (hm : m.wf) (haddr : ∀ j k, j < k → k < n → addr j ≠ addr k) {k : Nat} (hk : k < n) :
    (m.writeRun addr byte n).read (addr k) = byte k := by
  induction n with
  | zero => exact absurd hk k.not_lt_zero
  | succ n ih =>
    obtain hlt | rfl := Nat.lt_succ_iff_lt_or_eq.mp hk
    · exact (Memory.read_write_other _ _ (haddr k n hlt n.lt_succ_self)).trans
        (ih (fun i j hij hj => haddr i j hij (hj.trans n.lt_succ_self)) hlt)
    · exact Memory.read_write_same (Memory.wf_writeRun hm) _ _

end

/-- Addresses of a run that wraps do not meet while it is no longer than the address space (R61). -/
theorem add_mod_ne_of_lt {b j k n size : Nat} (hjk : j < k) (hk : k < n) (hn : n ≤ size) :
    (b + j) % size ≠ (b + k) % size := fun heq =>
  hjk.ne (Nat.ModEq.eq_of_lt_of_lt (Nat.ModEq.add_left_cancel' b heq) (by omega) (by omega))

/-! ### Words -/

/-- A range within the store ends at a word (R6, R7). -/
theorem toNat_add_of_within {p : Config} (hv : p.valid) {a c : Word} (h : a.toNat + c.toNat ≤ p.nvSize) :
    (a + c).toNat = a.toNat + c.toNat := by
  have hsize := valid_nvSize hv
  exact BitVec.toNat_add_of_lt (by omega)

theorem toNat_sub_one {w : Word} (h : w ≠ 0) : (w - 1).toNat + 1 = w.toNat := by
  have hpos := toNat_pos_of_ne h
  have hpred : (w - 1).toNat = w.toNat - 1 := BitVec.toNat_sub_of_le (BitVec.le_def.mpr hpos)
  omega

/-- Walking on from an address that has wrapped is walking on from where the walk began (R61). -/
theorem hostAddr_succ {p : Config} (hv : p.valid) (b : Word) (n : Nat) :
    hostAddr p (hostAddr p b n) 1 = hostAddr p b (n + 1) := wrap_succ (valid_wAddr hv) _

theorem hostAddr_zero {p : Config} (hv : p.valid) {b : Word} (hb : b.toNat < 2 ^ p.wAddr) : hostAddr p b 0 = b :=
  BitVec.eq_of_toNat_eq ((toNat_hostAddr hv b 0).trans (Nat.mod_eq_of_lt hb))

/-! ### NV_BUSY and NV_WRITE, R140 and R141 -/

theorem exec_nvBusy (s : State) : exec .nvBusy s = .next (s.reply .nvBusy .ok (if s.nv.busy then 1 else 0)) := rfl

/-- Outside the context of R245 (b) the writer is free for the issuing agent. -/
theorem writerOwned_eq_false {s : State}
    (h : ¬ (s.ctx = .interrupt ∧ ∃ x y z i, s.fgJob = some (.nvRead x y z i))) : writerOwned s = false := by
  rw [writerOwned, Bool.and_eq_false_imp]
  intro hctx
  split
  · next x y z i hjob => exact absurd ⟨by simpa using hctx, x, y, z, i, hjob⟩ h
  · rfl

section
variable {s : State} {a b c : Word}

theorem exec_nvWrite_busy (hfree : writerOwned s = false) (hbusy : s.nv.busy = true) :
    exec (.nvWrite a b c) s = .next (s.reply .nvWrite .rejectedBusy 0) := by
  simp [exec, execNvWrite, hfree, hbusy, Status.failRes]

theorem exec_nvWrite_past (hfree : writerOwned s = false) (hidle : s.nv.busy = false)
    (hpast : s.cfg.nvSize < a.toNat + c.toNat) :
    exec (.nvWrite a b c) s = .next (s.reply .nvWrite .capacityExceeded 0) := by
  simp [exec, execNvWrite, hfree, hidle, hpast, Status.failRes]

theorem exec_nvWrite_empty (hfree : writerOwned s = false) (hidle : s.nv.busy = false)
    (hfits : a.toNat + c.toNat ≤ s.cfg.nvSize) (hzero : c = 0) :
    exec (.nvWrite a b c) s = .next (s.reply .nvWrite .ok a) := by
  simp only [exec, execNvWrite, hfree, hidle, Nat.not_lt.mpr hfits, if_pos hzero, Bool.false_eq_true, if_false, done_eq]

theorem exec_nvWrite_accept (hfree : writerOwned s = false) (hidle : s.nv.busy = false)
    (hfits : a.toNat + c.toNat ≤ s.cfg.nvSize) (hsize : c ≠ 0) :
    exec (.nvWrite a b c) s = .next (State.reply { s with
      nv := { busy := true, ie := true, addr := a, rem := c, src := b, first := a, store := s.nv.store } }
      .nvWrite .ok (a + c)) := by
  simp only [exec, execNvWrite, hfree, hidle, Nat.not_lt.mpr hfits, hsize, Bool.false_eq_true, if_false, done_eq]

end

/-! ### EV_NV_READY and a job from its start to its end, R142 and R144 -/

/-- One byte of a job in full (R142). -/
theorem exec_evNvReady_byte {s : State} (henabled : nvReadyEnabled s = true) (hrem : s.nv.rem ≠ 0)
    (hwithin : s.nv.addr.toNat < s.cfg.nvSize) :
    exec .evNvReady s = .next (State.reply { s with
      nv := { s.nv with
        addr := s.nv.addr + 1, src := hostAddr s.cfg s.nv.src 1, rem := s.nv.rem - 1
        store := s.nv.store.write s.nv.addr.toNat (s.mem.read s.nv.src.toNat) }
      trace := s.trace ++ [.nvWrite s.nv.addr.toNat (s.mem.read s.nv.src.toNat)] } .evNvReady .ok 0) := by
  simp only [exec, execEvNvReady, henabled, hrem, Nat.not_le.mpr hwithin, if_true, if_false]
  rfl

/-- The `k`-th byte of a job's source in host memory (R141, R142). -/
def State.sourceByte (s : State) (b : Word) (k : Nat) : Byte := s.mem.read ((b.toNat + k) % 2 ^ s.cfg.wAddr)

/-- The state `n` bytes into the job that `NV_WRITE a, b, c` starts in `s`. -/
def State.inJob (s : State) (a b c : Word) (n : Nat) : State :=
  { s with
    nv := {
      busy := true, ie := true
      addr := BitVec.ofNat 32 (a.toNat + n), rem := BitVec.ofNat 32 (c.toNat - n), src := hostAddr s.cfg b n
      first := a, store := s.nv.store.writeRun (a.toNat + ·) (s.sourceByte b) n }
    trace := s.trace ++ (List.range n).map (fun k => .nvWrite (a.toNat + k) (s.sourceByte b k))
    answers := s.answers ++ { op := some .nvWrite, status := .ok, res := a + c } ::
      List.replicate n { op := some .evNvReady, status := .ok, res := 0 } }

section
variable {s : State} {a b c : Word} (hv : s.cfg.valid) (hfits : a.toNat + c.toNat ≤ s.cfg.nvSize)
include hv hfits

/-- An accepted `NV_WRITE` stands before its first byte. -/
theorem exec_nvWrite_inJob (hfree : writerOwned s = false) (hidle : s.nv.busy = false) (hsize : c ≠ 0)
    (hb : b.toNat < 2 ^ s.cfg.wAddr) :
    exec (.nvWrite a b c) s = .next (s.inJob a b c 0) := by
  simp [exec_nvWrite_accept hfree hidle hfits hsize, State.inJob, State.reply, Memory.writeRun, hostAddr_zero hv hb]

/-- With a byte left, `EV_NV_READY` moves the job on by one. -/
theorem exec_evNvReady_inJob {n : Nat} (hn : n < c.toNat) :
    exec .evNvReady (s.inJob a b c n) = .next (s.inJob a b c (n + 1)) := by
  have hsize := valid_nvSize hv
  have haddr : (s.inJob a b c n).nv.addr.toNat = a.toNat + n := Nat.mod_eq_of_lt (by omega)
  have hsrc : (s.inJob a b c n).nv.src.toNat = (b.toNat + n) % 2 ^ s.cfg.wAddr := toNat_hostAddr hv b n
  have hleft : c.toNat - n = c.toNat - (n + 1) + 1 := by omega
  have hrem : (s.inJob a b c n).nv.rem = BitVec.ofNat 32 (c.toNat - (n + 1)) + 1 :=
    (congrArg (BitVec.ofNat 32) hleft).trans (BitVec.ofNat_add _ _)
  have hmore : (s.inJob a b c n).nv.rem ≠ 0 := fun hzero =>
    absurd ((Nat.mod_eq_of_lt (by omega)).symm.trans (congrArg BitVec.toNat hzero)) (Nat.sub_ne_zero_of_lt hn)
  have hwithin : (s.inJob a b c n).nv.addr.toNat < s.cfg.nvSize := haddr ▸ by omega
  rw [exec_evNvReady_byte rfl hmore hwithin, haddr, hsrc, hrem]
  simp [State.inJob, State.reply, State.sourceByte, Memory.writeRun, hostAddr_succ hv, List.range_succ,
    List.replicate_succ', BitVec.ofNat_add, BitVec.add_assoc]

/-- A job's start and its first `n` events (R144). -/
theorem execAll_inJob (hfree : writerOwned s = false) (hidle : s.nv.busy = false) (hsize : c ≠ 0)
    (hb : b.toNat < 2 ^ s.cfg.wAddr) {n : Nat} (hn : n ≤ c.toNat) :
    execAll (.nvWrite a b c :: List.replicate n .evNvReady) s = .next (s.inJob a b c n) := by
  induction n with
  | zero => exact execAll_cons (exec_nvWrite_inJob hv hfits hfree hidle hsize hb)
  | succ n ih =>
    rw [List.replicate_succ', ← List.cons_append]
    exact execAll_snoc (ih (Nat.le_of_succ_le hn)) (exec_evNvReady_inJob hv hfits hn)

end

/-- The state in which that job has ended. -/
def State.jobEnded (s : State) (a b c : Word) : State :=
  State.reply { s.inJob a b c c.toNat with
    nv := { (s.inJob a b c c.toNat).nv with ie := false, busy := false } } .evNvReady .ok 0

section
variable {s : State} {a b c : Word} {n : Nat}

/-- After its last byte a job ends at the next event. -/
theorem exec_evNvReady_inJob_end : exec .evNvReady (s.inJob a b c c.toNat) = .next (s.jobEnded a b c) :=
  exec_evNvReady_end rfl (by simp [State.inJob])

theorem read_inJob_within (hstore : s.nv.store.wf) {k : Nat} (hk : k < n) :
    (s.inJob a b c n).nv.store.read (a.toNat + k) = s.sourceByte b k :=
  Memory.read_writeRun (addr := (a.toNat + ·)) hstore (fun _ _ hjk _ => (Nat.add_lt_add_left hjk _).ne) hk

theorem read_inJob_outside {x : Nat} (hx : x < a.toNat ∨ a.toNat + n ≤ x) :
    (s.inJob a b c n).nv.store.read x = s.nv.store.read x :=
  Memory.read_writeRun_other fun k hk => by omega

end

/-! ### NV_READ and a transfer from its start to its end, R143 -/

/-- The `i`-th byte of `NV_READ a, b, _` moved and its strobe emitted (R143). -/
def State.moveByte (s : State) (a b : Word) (i : Nat) : State :=
  memWrite (s.emit (.nvRead (a.toNat + i))) (hostAddr s.cfg b i) (s.nv.store.read (a.toNat + i))

/-- What the agent notes of its `NV_READ` once `n` bytes are moved: the operation under way while bytes are left, its
answer after the last (R12, R143). -/
def State.noteRead (s : State) (ctx : Context) (a b c : Word) (n : Nat) : State :=
  if n < c.toNat then s.setJob ctx (some (.nvRead a b c n)) else (s.setJob ctx none).reply .nvRead .ok 0

section
variable {s : State} {ctx : Context} {a b c : Word} {n : Nat}

theorem noteRead_underWay (h : n < c.toNat) : s.noteRead ctx a b c n = s.setJob ctx (some (.nvRead a b c n)) :=
  if_pos h

theorem noteRead_last (h : c.toNat ≤ n) : s.noteRead ctx a b c n = (s.setJob ctx none).reply .nvRead .ok 0 :=
  if_neg (Nat.not_lt.mpr h)

theorem setJob_noteRead (j : Option Transfer) : (s.setJob ctx j).noteRead ctx a b c n = s.noteRead ctx a b c n := by
  cases ctx <;> rfl

theorem setJob_moveByte (j : Option Transfer) : (s.setJob ctx j).moveByte a b n = (s.moveByte a b n).setJob ctx j := by
  cases ctx <;> rfl

theorem setJob_job_other {other : Context} (h : other ≠ ctx) (j : Option Transfer) :
    (s.setJob ctx j).job other = s.job other := by
  cases ctx with
  | foreground =>
    cases other with
    | foreground => exact absurd rfl h
    | interrupt => rfl
  | interrupt =>
    cases other with
    | foreground => rfl
    | interrupt => exact absurd rfl h

/-- Undisturbed, and with no other agent's operation in its way, an operation under way takes the next step. -/
theorem step_setJob (hinbox : s.inbox = []) (hirq : s.irqJob = none) (j : Transfer) :
    step (s.setJob ctx (some j)) = transferStep ctx j (s.setJob ctx (some j)) := by
  rw [step_idle (by rw [setJob_inbox, hinbox])]
  cases ctx with
  | foreground => exact goOn_foreground (s := s.setJob .foreground (some j)) hirq rfl
  | interrupt => exact goOn_interrupt (s := s.setJob .interrupt (some j)) rfl

/-- The foreground host's slot is what ends an operation where the interrupt-context host has none. -/
theorem setJob_none (h : s.irqJob = none) :
    s.setJob ctx none = { s with fgJob := if ctx = .foreground then none else s.fgJob } := by
  cases ctx with
  | foreground => rfl
  | interrupt => simp [State.setJob, h]

/-- The agent's note is no more than its answers and the operations under way. -/
theorem noteRead_frame : s.noteRead ctx a b c n = { s with
    answers := (s.noteRead ctx a b c n).answers
    fgJob := (s.noteRead ctx a b c n).fgJob
    irqJob := (s.noteRead ctx a b c n).irqJob } := by
  unfold State.noteRead
  split <;> cases ctx <;> rfl

theorem noteRead_mem : (s.noteRead ctx a b c n).mem = s.mem := by
  unfold State.noteRead
  split <;> cases ctx <;> rfl

/-- One byte step (R143). -/
theorem nvReadStep_within (hwithin : a.toNat + n < s.cfg.nvSize) :
    nvReadStep ctx a b c n s = .next ((s.moveByte a b n).noteRead ctx a b c (n + 1)) := by
  simp only [nvReadStep, Nat.not_le.mpr hwithin, if_false, State.noteRead]
  split <;> rfl

theorem exec_nvRead_busy (hbusy : s.nv.busy = true) :
    exec (.nvRead a b c) s = .next (s.reply .nvRead .rejectedBusy 0) := by
  simp [exec, execNvRead, hbusy, Status.failRes]

theorem exec_nvRead_past (hidle : s.nv.busy = false) (hpast : s.cfg.nvSize < a.toNat + c.toNat) :
    exec (.nvRead a b c) s = .next (s.reply .nvRead .capacityExceeded 0) := by
  simp [exec, execNvRead, hidle, hpast, Status.failRes]

theorem exec_nvRead_empty (hidle : s.nv.busy = false) (hfits : a.toNat + c.toNat ≤ s.cfg.nvSize) (hzero : c = 0) :
    exec (.nvRead a b c) s = .next (s.reply .nvRead .ok 0) := by
  simp only [exec, execNvRead, hidle, Nat.not_lt.mpr hfits, if_pos hzero, Bool.false_eq_true, if_false, done_eq]

/-- Otherwise `NV_READ` is its first byte step. -/
theorem exec_nvRead_start (hidle : s.nv.busy = false) (hfits : a.toNat + c.toNat ≤ s.cfg.nvSize) (hsize : c ≠ 0) :
    exec (.nvRead a b c) s = nvReadStep s.ctx a b c 0 s := by
  simp only [exec, execNvRead, hidle, Nat.not_lt.mpr hfits, hsize, Bool.false_eq_true, if_false]

end

/-- `s` with the first `n` bytes of `NV_READ a, b, _` moved. -/
def State.moved (s : State) (a b : Word) (n : Nat) : State :=
  { s with
    mem := s.mem.writeRun (fun k => (b.toNat + k) % 2 ^ s.cfg.wAddr) (fun k => s.nv.store.read (a.toNat + k)) n
    trace := s.trace ++ (List.range n).map (fun k => .nvRead (a.toNat + k)) }

theorem moved_zero (s : State) (a b : Word) : s.moved a b 0 = s := by simp [State.moved, Memory.writeRun]

section
variable {s : State} {a b c : Word} (hv : s.cfg.valid)
include hv

theorem moveByte_moved (n : Nat) : (s.moved a b n).moveByte a b n = s.moved a b (n + 1) := by
  have haddr : (hostAddr (s.moved a b n).cfg b n).toNat = (b.toNat + n) % 2 ^ s.cfg.wAddr := toNat_hostAddr hv b n
  simp only [State.moveByte, memWrite, haddr]
  simp [State.moved, State.emit, Memory.writeRun, List.range_succ]

variable (hfits : a.toNat + c.toNat ≤ s.cfg.nvSize)
include hfits

/-- The first byte of a transfer. -/
theorem exec_nvRead_moved (hidle : s.nv.busy = false) (hsize : c ≠ 0) :
    exec (.nvRead a b c) s = .next ((s.moved a b 1).noteRead s.ctx a b c 1) := by
  have hpos := toNat_pos_of_ne hsize
  rw [exec_nvRead_start hidle hfits hsize, nvReadStep_within (by omega), ← moveByte_moved hv, moved_zero]

/-- Undisturbed, the agent's next step moves the next byte. -/
theorem step_noteRead (hinbox : s.inbox = []) (hirq : s.irqJob = none) (ctx : Context) {n : Nat} (hn : n < c.toNat) :
    step ((s.moved a b n).noteRead ctx a b c n) = .next ((s.moved a b (n + 1)).noteRead ctx a b c (n + 1)) := by
  have hwithin : a.toNat + n < ((s.moved a b n).setJob ctx (some (.nvRead a b c n))).cfg.nvSize := by
    rw [setJob_cfg]
    exact Nat.lt_of_lt_of_le (Nat.add_lt_add_left hn _) hfits
  rw [noteRead_underWay hn, step_setJob (s := s.moved a b n) hinbox hirq, transferStep, nvReadStep_within hwithin,
    setJob_moveByte, setJob_noteRead, moveByte_moved hv]

/-- Undisturbed, each step moves one byte more. -/
theorem steps_noteRead (hinbox : s.inbox = []) (hirq : s.irqJob = none) (ctx : Context) {n : Nat} (hn : n < c.toNat) :
    steps n ((s.moved a b 1).noteRead ctx a b c 1) = .next ((s.moved a b (n + 1)).noteRead ctx a b c (n + 1)) := by
  induction n with
  | zero => rfl
  | succ n ih => exact steps_snoc (ih (Nat.lt_of_succ_lt hn)) (step_noteRead hv hfits hinbox hirq ctx hn)

end

section
variable {s : State} {a b : Word} {n : Nat}

theorem read_moved_within (hmem : s.mem.wf) (hn : n ≤ 2 ^ s.cfg.wAddr) {k : Nat} (hk : k < n) :
    (s.moved a b n).mem.read ((b.toNat + k) % 2 ^ s.cfg.wAddr) = s.nv.store.read (a.toNat + k) :=
  Memory.read_writeRun (addr := fun k => (b.toNat + k) % 2 ^ s.cfg.wAddr) hmem
    (fun _ _ hjk hk => add_mod_ne_of_lt hjk hk hn) hk

theorem read_moved_outside {x : Nat} (hx : ∀ k, k < n → x ≠ (b.toNat + k) % 2 ^ s.cfg.wAddr) :
    (s.moved a b n).mem.read x = s.mem.read x := Memory.read_writeRun_other hx

end

/-! ### The statements -/

/-- Settles O24: the operation is its answer alone. -/
theorem nvBusyAnswersTheFlag : Obligations.NvBusyAnswersTheFlag := ⟨by decide, exec_nvBusy⟩

/-- Settles O25: the four branches of the operation, the writer being free for its agent. -/
theorem nvWriteAcceptsOrRejects : Obligations.NvWriteAcceptsOrRejects := by
  refine ⟨fun _ _ _ => rfl, fun s a b c hv hctx => ?_⟩
  have hfree := writerOwned_eq_false hctx
  exact ⟨exec_nvWrite_busy hfree, exec_nvWrite_past hfree, exec_nvWrite_empty hfree, fun hidle hfits hsize =>
    ⟨a + c, toNat_add_of_within hv hfits, exec_nvWrite_accept hfree hidle hfits hsize⟩⟩

/-- Settles O26: the three branches of the event; within the store neither the address nor the count wraps. -/
theorem nvReadyMovesOneByte : Obligations.NvReadyMovesOneByte := by
  refine ⟨by decide, fun s hv hstore => ⟨exec_evNvReady_disabled, exec_evNvReady_end, fun hie hrem hwithin => ?_⟩⟩
  exact ⟨_, exec_evNvReady_byte hie hrem hwithin, toNat_add_of_within hv hwithin, toNat_sub_one hrem,
    toNat_hostAddr hv _ 1, rfl, rfl, rfl, fun x => Memory.read_write hstore _ x _, rfl⟩

/-- Settles O27: the branches of the operation, and the byte step with what it notes while bytes are left and at the
last. -/
theorem nvReadTestsAndByteSteps : Obligations.NvReadTestsAndByteSteps := by
  refine ⟨fun _ _ _ => rfl, fun s a b c hv hmem => ⟨exec_nvRead_busy, exec_nvRead_past, exec_nvRead_empty,
    exec_nvRead_start, fun ctx i hi hfits => ?_⟩⟩
  refine ⟨_, nvReadStep_within (by omega), fun x => ?_, fun hlast => ?_, fun hmore => ?_, fun other hne => ?_, ?_⟩
  · rw [noteRead_mem, ← toNat_hostAddr hv]
    exact Memory.read_write hmem _ x _
  · rw [noteRead_last hlast.ge]
    exact ⟨setJob_job _ ctx none, by rw [reply_answers, setJob_answers]; rfl⟩
  · rw [noteRead_underWay hmore]
    exact ⟨setJob_job _ ctx _, setJob_answers _ ctx _⟩
  · unfold State.noteRead
    split
    · exact setJob_job_other hne _
    · exact setJob_job_other hne none
  · rw [noteRead_mem]
    exact noteRead_frame

/-- Settles O28: the first byte is the operation's own, each step moves one more, and the addresses written do not
meet. -/
theorem nvReadCopiesTheRange : Obligations.NvReadCopiesTheRange := by
  intro s a b c hv hmem hinbox hirq hidle hsize hfits hspace
  have hpos := toNat_pos_of_ne hsize
  have hlast := steps_noteRead (b := b) hv hfits hinbox hirq s.ctx (Nat.sub_lt hpos Nat.one_pos)
  rw [Nat.sub_add_cancel hpos, noteRead_last le_rfl] at hlast
  refine ⟨_, _, exec_nvRead_moved hv hfits hidle hsize, hlast, ?_⟩
  rw [reply_mem, setJob_mem]
  exact ⟨fun _ => read_moved_within hmem hspace, fun _ => read_moved_outside,
    congrArg (State.reply · .nvRead .ok 0) (setJob_none (s := s.moved a b c.toNat) hirq)⟩

/-- Settles O29: the job `n` bytes on, then the event that ends it and the one that is not enabled. -/
theorem jobTakesOneEventMoreThanBytes : Obligations.JobTakesOneEventMoreThanBytes := by
  intro s a b c hv hstore hctx hidle hsize hfits hb
  have hall {n : Nat} (hn : n ≤ c.toNat) := execAll_inJob hv hfits (writerOwned_eq_false hctx) hidle hsize hb hn
  exact ⟨fun n hn => ⟨_, hall hn, rfl, rfl, rfl, fun _ => read_inJob_within hstore, fun _ => read_inJob_outside⟩,
    _, _, hall le_rfl, exec_evNvReady_inJob_end, rfl, rfl, rfl, rfl, exec_evNvReady_disabled rfl⟩

/-- Settles O30: what the job left in the store is what the transfer copies. -/
theorem writeThenReadGivesTheBytes : Obligations.WriteThenReadGivesTheBytes := by
  intro s a b c d hv hstore hmem hinbox hctx hirq hidle hfits hspace hb
  have hfree := writerOwned_eq_false hctx
  refine ⟨fun hsize => ?_, fun hzero => ?_⟩
  · have hwritten := execAll_snoc (execAll_inJob hv hfits hfree hidle hsize hb le_rfl) exec_evNvReady_inJob_end
    rw [List.cons_append, ← List.replicate_succ'] at hwritten
    obtain ⟨v, t, hread, hsteps, hbytes, -⟩ :=
      nvReadCopiesTheRange (s.jobEnded a b c) a d c hv hmem hinbox hirq rfl hsize hfits hspace
    exact ⟨_, v, t, hwritten, hread, hsteps, fun k hk => (hbytes k hk).trans (read_inJob_within (c := c) hstore hk)⟩
  · have hread : exec (.nvRead a d c) (s.reply .nvWrite .ok a) = _ := exec_nvRead_empty hidle hfits hzero
    rw [execAll_cons (exec_nvWrite_empty hfree hidle hfits hzero), execAll_cons hread, execAll, reply_eq, reply_eq,
      List.append_assoc]
    rfl

end Sys2Proof.Machine
end

section
/-! SUPPORT. The Duplex Serial Driver (spec/43_serial.md R160 to R171): what a queue is seen to hold and how a push and
a pop change it, the operations and events branch by branch, and what runs of them leave. -/

namespace Sys2Proof.Machine

/-! ### What a queue is seen to hold, R160 and R30 -/

/-- The bytes a queue is seen to hold, oldest first. -/
def Queue.contents (q : Queue) : List Byte := (List.range q.fill).map fun k => q.buf[(q.out.toNat + k) % 128]

theorem Queue.fill_eq (q : Queue) : q.fill = (q.inp.toNat + 128 - q.out.toNat) % 128 := by
  have hout := q.out.isLt
  rw [Queue.fill, BitVec.toNat_sub]
  omega

@[simp] theorem Queue.length_contents (q : Queue) : q.contents.length = q.fill := by simp [Queue.contents]

theorem Queue.contents_eq_nil_iff {q : Queue} : q.contents = [] ↔ q.inp = q.out := by
  rw [← List.length_eq_zero_iff, Queue.length_contents, Queue.fill_eq, ← BitVec.toNat_inj]
  have hinp := q.inp.isLt
  have hout := q.out.isLt
  omega

/-- A push below 127 bytes appends its byte. -/
theorem Queue.contents_push {q : Queue} (h : q.fill < 127) (b : Byte) : (q.push b).contents = q.contents ++ [b] := by
  obtain ⟨hbuf, hinp, hout⟩ := push_isPush q b
  have hinpLt := q.inp.isLt
  have houtLt := q.out.isLt
  have hfill := q.fill_eq
  have hgrows : (q.push b).fill = q.fill + 1 := by
    rw [Queue.fill_eq, hinp, hout]
    omega
  simp only [Queue.contents, hgrows, hout, List.range_succ, List.map_append, List.map_singleton, hbuf]
  congr 1
  · refine List.map_congr_left fun k hk => if_neg ?_
    have hk := List.mem_range.mp hk
    omega
  · rw [if_pos (by omega)]

/-- So do several, while the queue is seen to hold no more than 127. -/
theorem Queue.contents_foldl_push {q : Queue} {bs : List Byte} (h : q.fill + bs.length ≤ 127) :
    (bs.foldl Queue.push q).contents = q.contents ++ bs := by
  induction bs generalizing q with
  | nil => simp
  | cons b bs ih =>
    rw [List.length_cons] at h
    have hpush := Queue.contents_push (q := q) (by omega) b
    have hfill : (q.push b).fill = q.fill + 1 := by simpa using congrArg List.length hpush
    rw [List.foldl_cons, ih (by omega), hpush, List.append_assoc, List.singleton_append]

/-- Up to 127 bytes pushed on an empty queue are what it is then seen to hold. -/
theorem Queue.contents_foldl_push_of_empty {q : Queue} (h : q.inp = q.out) {bs : List Byte} (hlen : bs.length ≤ 127) :
    (bs.foldl Queue.push q).contents = bs := by
  have hnil := Queue.contents_eq_nil_iff.mpr h
  have hfill : q.fill = 0 := by rw [← Queue.length_contents, hnil, List.length_nil]
  rw [Queue.contents_foldl_push (by omega), hnil, List.nil_append]

/-- The push that finds 127 bytes makes the indices meet. -/
theorem Queue.push_full {q : Queue} (h : (q.inp.toNat + 128 - q.out.toNat) % 128 = 127) (b : Byte) :
    (q.push b).inp = (q.push b).out := by
  obtain ⟨-, hinp, hout⟩ := push_isPush q b
  have houtLt := q.out.isLt
  rw [← BitVec.toNat_inj, hinp, hout]
  omega

/-- A byte that goes through an empty queue leaves it empty. -/
theorem Queue.inp_push_of_empty {q : Queue} (h : q.inp = q.out) (b : Byte) : (q.push b).inp = q.out + 1 :=
  congrArg (· + 1) h

theorem Queue.pop_eq_none {q : Queue} (h : q.inp = q.out) : q.pop = none := if_pos h

theorem Queue.pop_eq_some {q : Queue} (h : q.inp ≠ q.out) : ∃ b q', q.pop = some (b, q') := ⟨_, _, if_neg h⟩

/-- A pop takes the oldest byte. -/
theorem Queue.contents_of_pop {q q' : Queue} {b : Byte} (h : q.pop = some (b, q')) : q.contents = b :: q'.contents := by
  obtain ⟨-, hbyte, hout, -, hbuf⟩ := pop_isPop h
  have houtLt := q.out.isLt
  rw [Queue.contents, ← fill_of_pop h, List.range_succ_eq_map, List.map_cons, List.map_map]
  congr 1
  · exact (getElem_congr rfl (Nat.mod_eq_of_lt houtLt) _).trans (hbyte houtLt)
  · exact List.map_congr_left fun k _ => getElem_congr hbuf.symm (by omega) _

theorem Queue.pop_of_contents {q : Queue} {b : Byte} {bs : List Byte} (h : q.contents = b :: bs) :
    ∃ q', q.pop = some (b, q') ∧ q'.contents = bs := by
  obtain ⟨c, q', hpop⟩ := Queue.pop_eq_some (mt Queue.contents_eq_nil_iff.mpr (h ▸ List.cons_ne_nil b bs))
  rw [Queue.contents_of_pop hpop, List.cons.injEq] at h
  exact ⟨q', h.1 ▸ hpop, h.2⟩

/-! ### Several pushes for transmission, R162 -/

/-- The link after one push for transmission (R162): with the transmitter idle, and so the queue empty, the byte goes
through the queue to the line. -/
def Serial.afterPush (x : Serial) (b : Byte) : Serial :=
  if x.txBusy then { x with tx := x.tx.push b }
  else { x with tx := { x.tx.push b with out := x.tx.out + 1 }, txBusy := true }

/-- `s` with bytes pushed for transmission one after the other and no answers given: an idle transmitter sends the
first. -/
def State.afterPushes (s : State) (bs : List Byte) : State :=
  { s with
    ser := bs.foldl Serial.afterPush s.ser
    trace := s.trace ++ if s.ser.txBusy then [] else (bs.take 1).map .txByte }

section
variable {x : Serial} {b : Byte} {bs : List Byte}

theorem Serial.afterPush_busy (h : x.txBusy = true) : x.afterPush b = { x with tx := x.tx.push b } := if_pos h

theorem Serial.afterPush_idle (h : x.txBusy = false) :
    x.afterPush b = { x with tx := { x.tx.push b with out := x.tx.out + 1 }, txBusy := true } := by
  simp [Serial.afterPush, h]

@[simp] theorem Serial.afterPush_on : (x.afterPush b).on = x.on := by unfold Serial.afterPush; split <;> rfl

@[simp] theorem Serial.afterPush_txBusy : (x.afterPush b).txBusy = true := by
  unfold Serial.afterPush
  split
  · assumption
  · rfl

theorem Serial.afterPush_idle_empty (h : (x.afterPush b).txBusy = false) :
    (x.afterPush b).tx.inp = (x.afterPush b).tx.out := nomatch Serial.afterPush_txBusy.symm.trans h

/-- While the transmitter is busy, pushes go to the queue alone. -/
theorem Serial.foldl_afterPush_busy (h : x.txBusy = true) :
    bs.foldl Serial.afterPush x = { x with tx := bs.foldl Queue.push x.tx } := by
  induction bs generalizing x with
  | nil => rfl
  | cons b bs ih => rw [List.foldl_cons, ih Serial.afterPush_txBusy, Serial.afterPush_busy h, List.foldl_cons]

end

section
variable {s : State} {b : Byte} {bs : List Byte}

@[simp] theorem afterPushes_nil : s.afterPushes [] = s := by simp [State.afterPushes]

theorem afterPushes_cons : s.afterPushes (b :: bs) = (s.afterPushes [b]).afterPushes bs := by
  cases hbusy : s.ser.txBusy <;> simp [State.afterPushes, hbusy]

theorem pushTx_afterPushes (hon : s.ser.on = true) (hidle : s.ser.txBusy = false → s.ser.tx.inp = s.ser.tx.out) :
    pushTx b s = .next (s.afterPushes [b]) := by
  cases hbusy : s.ser.txBusy with
  | true => simp [pushTx_busy hon hbusy, State.afterPushes, Serial.afterPush_busy hbusy, hbusy]
  | false => simp [pushTx_idle hon hbusy (hidle hbusy), State.afterPushes, Serial.afterPush_idle hbusy, hbusy]

end

/-! ### The operations and events, R161 to R167 -/

/-- Outside the context of R245 (b) the link is free for the issuing agent. -/
theorem serialOwned_eq_false {s : State} (h : ¬ (s.ctx = .interrupt ∧ ∃ p, s.fgJob = some (.sendStr p))) :
    serialOwned s = false := by
  rw [serialOwned, Bool.and_eq_false_imp]
  intro hctx
  split
  · next p hjob => exact absurd ⟨by simpa using hctx, p, hjob⟩ h
  · rfl

section
variable {s : State} {b : Byte} {q : Queue}

theorem exec_serConfig (s : State) :
    exec .serConfig s = .next (State.reply { s with ser := { s.ser with on := true } } .serConfig .ok 0) := rfl

theorem exec_serPushTx_off (hfree : serialOwned s = false) (hoff : s.ser.on = false) :
    exec (.serPushTx b) s = .refused .linkNotConfigured := by simp [exec, execSerPushTx, hfree, pushTx_off hoff]

/-- Otherwise `SER_PUSH_TX` is its push, answered (R162). -/
theorem exec_serPushTx (hfree : serialOwned s = false) {t : State} (hpush : pushTx b s = .next t) :
    exec (.serPushTx b) s = .next (t.reply .serPushTx .ok 0) := by simp [exec, execSerPushTx, hfree, hpush]

theorem exec_serPopTx_empty (hfree : serialOwned s = false) (hpop : s.ser.tx.pop = none) :
    exec .serPopTx s = .next (s.reply .serPopTx .empty 0xFFFFFFFF) := by simp [exec, execSerPopTx, hfree, hpop]

theorem exec_serPopTx_byte (hfree : serialOwned s = false) (hpop : s.ser.tx.pop = some (b, q)) :
    exec .serPopTx s =
      .next (State.reply { s with ser := { s.ser with tx := q } } .serPopTx .ok (b.setWidth 32)) := by
  simp [exec, execSerPopTx, hfree, hpop]

theorem exec_serPopRx_empty (hpop : s.ser.rx.pop = none) :
    exec .serPopRx s = .next (s.reply .serPopRx .empty 0xFFFFFFFF) := by simp [exec, execSerPopRx, hpop]

theorem exec_serPopRx_byte (hpop : s.ser.rx.pop = some (b, q)) :
    exec .serPopRx s =
      .next (State.reply { s with ser := { s.ser with rx := q } } .serPopRx .ok (b.setWidth 32)) := by
  simp [exec, execSerPopRx, hpop]

theorem exec_evSerRx_disabled (hoff : s.ser.on = false) :
    exec (.evSerRx b) s = .next (s.reply .evSerRx .notEnabled 0) := by
  simp [exec, execEvSerRx, serRxEnabled, hoff, Status.failRes]

theorem exec_evSerRx_push (hon : s.ser.on = true) :
    exec (.evSerRx b) s =
      .next (State.reply { s with ser := { s.ser with rx := s.ser.rx.push b } } .evSerRx .ok 0) := by
  simp [exec, execEvSerRx, serRxEnabled, hon]

theorem serTxcEnabled_of_busy (hon : s.ser.on = true) (hbusy : s.ser.txBusy = true) : serTxcEnabled s = true := by
  simp [serTxcEnabled, hon, hbusy]

theorem busy_of_serTxcEnabled (h : serTxcEnabled s = true) : s.ser.txBusy = true :=
  ((Bool.and_eq_true _ _).mp h).2

theorem exec_serSendStr_off {p : Word} (hfree : serialOwned s = false) (hoff : s.ser.on = false) :
    exec (.serSendStr p) s = .refused .linkNotConfigured := by simp [exec, execSerSendStr, hfree, hoff]

/-- Otherwise `SER_SEND_STR` is its first iteration (R164). -/
theorem exec_serSendStr_start {p : Word} (hfree : serialOwned s = false) (hon : s.ser.on = true) :
    exec (.serSendStr p) s = sendStrStep s.ctx p s := by simp [exec, execSerSendStr, hfree, hon]

end

/-! ### Runs of the receive queue, R168 -/

theorem execAll_evSerRx {s : State} (hon : s.ser.on = true) (bs : List Byte) :
    execAll (bs.map .evSerRx) s = .next { s with
      ser := { s.ser with rx := bs.foldl Queue.push s.ser.rx }
      answers := s.answers ++ List.replicate bs.length { op := some .evSerRx, status := .ok, res := 0 } } := by
  induction bs generalizing s with
  | nil => simp [execAll]
  | cons b bs ih =>
    rw [List.map_cons, execAll_cons (exec_evSerRx_push hon), ih (by exact hon)]
    simp [State.reply, List.replicate_succ]

/-- As many pops as the queue is seen to hold answer its bytes and leave it empty. -/
theorem execAll_serPopRx {s : State} {bs : List Byte} (h : s.ser.rx.contents = bs) :
    ∃ t, execAll (List.replicate bs.length .serPopRx) s = .next t ∧ t.ser.rx.inp = t.ser.rx.out ∧
      t.answers = s.answers ++ bs.map (fun b => { op := some .serPopRx, status := .ok, res := b.setWidth 32 }) := by
  induction bs generalizing s with
  | nil => exact ⟨s, rfl, Queue.contents_eq_nil_iff.mp h, by simp⟩
  | cons b bs ih =>
    obtain ⟨q, hpop, hrest⟩ := Queue.pop_of_contents h
    obtain ⟨t, ht, hempty, hanswers⟩ :=
      ih (s := State.reply { s with ser := { s.ser with rx := q } } .serPopRx .ok (b.setWidth 32)) hrest
    refine ⟨t, ?_, hempty, by simp [hanswers]⟩
    rw [List.length_cons, List.replicate_succ, execAll_cons (exec_serPopRx_byte hpop), ht]

/-! ### Runs of the transmit queue, R168 -/

theorem execAll_serPushTx {s : State} (hfree : serialOwned s = false) (hon : s.ser.on = true)
    (hidle : s.ser.txBusy = false → s.ser.tx.inp = s.ser.tx.out) (bs : List Byte) :
    execAll (bs.map .serPushTx) s = .next { s.afterPushes bs with
      answers := s.answers ++ List.replicate bs.length { op := some .serPushTx, status := .ok, res := 0 } } := by
  induction bs generalizing s with
  | nil => simp [execAll]
  | cons b bs ih =>
    rw [List.map_cons, execAll_cons (exec_serPushTx hfree (pushTx_afterPushes hon hidle)),
      ih (s := (s.afterPushes [b]).reply .serPushTx .ok 0) hfree (Serial.afterPush_on.trans hon)
        Serial.afterPush_idle_empty, afterPushes_cons]
    simp [State.afterPushes, State.reply, List.replicate_succ]

/-- Bytes pushed on an idle link: the first is on the line, the others are in the queue, and the transmitter is busy. -/
theorem afterPushes_idle {s : State} {b : Byte} {bs : List Byte} (hidle : s.ser.txBusy = false)
    (hempty : s.ser.tx.inp = s.ser.tx.out) (hlen : bs.length ≤ 127) :
    (s.afterPushes (b :: bs)).ser.txBusy = true ∧ (s.afterPushes (b :: bs)).ser.on = s.ser.on ∧
      (s.afterPushes (b :: bs)).ser.tx.contents = bs ∧ (s.afterPushes (b :: bs)).trace = s.trace ++ [.txByte b] := by
  have hsent : (s.ser.afterPush b).tx.inp = (s.ser.afterPush b).tx.out := by
    rw [Serial.afterPush_idle hidle]
    exact Queue.inp_push_of_empty hempty b
  have hqueued := Queue.contents_foldl_push_of_empty hsent hlen
  simp [State.afterPushes, Serial.foldl_afterPush_busy, hqueued, hidle]

/-- While bytes are queued each `EV_SER_TXC` sends the oldest. -/
theorem execAll_evSerTxc {s : State} {queued : List Byte} {k : Nat} (henabled : serTxcEnabled s = true)
    (h : s.ser.tx.contents = queued) (hk : k ≤ queued.length) :
    ∃ t, execAll (List.replicate k .evSerTxc) s = .next t ∧ serTxcEnabled t = true ∧
      t.ser.tx.contents = queued.drop k ∧ t.trace = s.trace ++ (queued.take k).map .txByte := by
  induction k generalizing s queued with
  | zero => exact ⟨s, rfl, henabled, h, by simp⟩
  | succ k ih =>
    cases queued with
    | nil => exact absurd hk (Nat.not_succ_le_zero k)
    | cons b queued =>
      obtain ⟨q, hpop, hrest⟩ := Queue.pop_of_contents h
      obtain ⟨t, ht, hsending, hleft, htrace⟩ :=
        ih (s := (State.emit { s with ser := { s.ser with tx := q } } (.txByte b)).reply .evSerTxc .ok 0) henabled hrest
          (Nat.le_of_succ_le_succ hk)
      refine ⟨t, ?_, hsending, hleft, by simp [htrace]⟩
      rw [List.replicate_succ, execAll_cons (exec_evSerTxc_send henabled hpop), ht]

/-- Bytes pushed on an idle link, then `k` events: all but the first byte are queued, and each event sends one. -/
theorem execAll_serPushTx_evSerTxc {s : State} {b : Byte} {bs : List Byte} {k : Nat} (hfree : serialOwned s = false)
    (hon : s.ser.on = true) (hidle : s.ser.txBusy = false) (hempty : s.ser.tx.inp = s.ser.tx.out)
    (hlen : bs.length ≤ 127) (hk : k ≤ bs.length) :
    ∃ t, execAll ((b :: bs).map .serPushTx ++ List.replicate k .evSerTxc) s = .next t ∧ serTxcEnabled t = true ∧
      t.ser.tx.contents = bs.drop k ∧ t.trace = s.trace ++ ((b :: bs).take (k + 1)).map .txByte := by
  obtain ⟨hbusy, honAfter, hqueued, hfirst⟩ := afterPushes_idle (b := b) hidle hempty hlen
  rw [execAll_append _ (execAll_serPushTx hfree hon (fun _ => hempty) (b :: bs))]
  have henabled := serTxcEnabled_of_busy (honAfter.trans hon) hbusy
  obtain ⟨t, ht, hsending, hleft, htrace⟩ := execAll_evSerTxc (s := { s.afterPushes (b :: bs) with
    answers := s.answers ++ List.replicate (b :: bs).length { op := some .serPushTx, status := .ok, res := 0 } })
    henabled hqueued hk
  exact ⟨t, ht, hsending, hleft, by simp [htrace, hfirst]⟩

/-! ### SER_SEND_STR, R164 -/

/-- The text stands in host memory from address `p` on, a zero byte behind it. -/
def TextAt (cfg : Config) (m : Memory) : Word → List Byte → Prop
  | p, [] => m.read p.toNat = 0
  | p, b :: bs => m.read p.toNat = b ∧ b ≠ 0 ∧ TextAt cfg m (hostAddr cfg p 1) bs

theorem textAt_of_read {cfg : Config} {m : Memory} (hv : cfg.valid) {p : Word} {text : List Byte}
    (hp : p.toNat < 2 ^ cfg.wAddr)
    (hbytes : ∀ (k : Nat) (b : Byte), text[k]? = some b → b ≠ 0 ∧ m.read ((p.toNat + k) % 2 ^ cfg.wAddr) = b)
    (hzero : m.read ((p.toNat + text.length) % 2 ^ cfg.wAddr) = 0) : TextAt cfg m p text := by
  induction text generalizing p with
  | nil => simpa [TextAt, Nat.mod_eq_of_lt hp] using hzero
  | cons b bs ih =>
    obtain ⟨hb, hread⟩ := hbytes 0 b rfl
    have hnext (k : Nat) : ((hostAddr cfg p 1).toNat + k) % 2 ^ cfg.wAddr = (p.toNat + (k + 1)) % 2 ^ cfg.wAddr := by
      rw [toNat_hostAddr hv, Nat.mod_add_mod, Nat.add_assoc, Nat.add_comm 1 k]
    refine ⟨by simpa [Nat.mod_eq_of_lt hp] using hread, hb, ih (wrap_lt (valid_wAddr hv)) (fun k c hk => ?_) ?_⟩
    · rw [hnext]
      exact hbytes (k + 1) c hk
    · rw [hnext]
      exact hzero

/-- One iteration with a byte left: it is pushed and the pointer moves on. -/
theorem sendStrStep_byte {s : State} {ctx : Context} {p : Word} (hbyte : s.mem.read p.toNat ≠ 0)
    (hon : s.ser.on = true) (hidle : s.ser.txBusy = false → s.ser.tx.inp = s.ser.tx.out) :
    sendStrStep ctx p s =
      .next ((s.afterPushes [s.mem.read p.toNat]).setJob ctx (some (.sendStr (hostAddr s.cfg p 1)))) :=
  sendStrStep_push hbyte (pushTx_afterPushes hon hidle)

/-- A push reads and writes the link and the trace alone. -/
theorem pushTx_setJob (s : State) (ctx : Context) (j : Option Transfer) (b : Byte) :
    pushTx b (s.setJob ctx j) = mapNext (·.setJob ctx j) (pushTx b s) := by
  cases h : (s.ser.tx.push b).pop <;> cases ctx <;>
    simp only [pushTx, setJob_ser, mapNext_ite, h] <;> rfl

/-- An iteration does not read the slot it writes. -/
theorem sendStrStep_setJob (s : State) (ctx : Context) (j : Option Transfer) (p : Word) :
    sendStrStep ctx p (s.setJob ctx j) = sendStrStep ctx p s := by
  have hread : memRead (s.setJob ctx j) p = memRead s p := congrArg (Memory.read · p.toNat) (setJob_mem s ctx j)
  cases h : pushTx (memRead s p) s <;> cases ctx <;>
    simp only [sendStrStep, hread, pushTx_setJob, h] <;> rfl

/-- Undisturbed, the first iteration and one step for each byte push the text and give the answer. -/
theorem sendStrStep_steps {s : State} {p : Word} {text : List Byte} (htext : TextAt s.cfg s.mem p text)
    (hinbox : s.inbox = []) (hirq : s.irqJob = none) (hon : s.ser.on = true)
    (hidle : s.ser.txBusy = false → s.ser.tx.inp = s.ser.tx.out) (ctx : Context) :
    ∃ t₀, sendStrStep ctx p s = .next t₀ ∧
      steps text.length t₀ = .next (((s.afterPushes text).setJob ctx none).reply .serSendStr .ok 0) := by
  induction text generalizing s p with
  | nil => exact ⟨_, sendStrStep_zero htext, by rw [afterPushes_nil]; rfl⟩
  | cons b bs ih =>
    obtain ⟨rfl, hb, htext⟩ := htext
    obtain ⟨t₁, hnext, hsteps⟩ := ih (s := s.afterPushes [s.mem.read p.toNat]) htext hinbox hirq
      (Serial.afterPush_on.trans hon) Serial.afterPush_idle_empty
    refine ⟨_, sendStrStep_byte hb hon hidle, ?_⟩
    rw [afterPushes_cons (bs := bs), ← hsteps]
    exact steps_succ ((step_setJob (s := s.afterPushes [_]) hinbox hirq _).trans
      ((sendStrStep_setJob _ _ _ _).trans hnext))

/-- The slot of an agent that nothing holds up is empty. -/
theorem setJob_none_of_unheld {s : State} (h : Unheld s) : s.setJob s.ctx none = s := by
  obtain ⟨hirq, hfg⟩ := h
  cases hctx : s.ctx with
  | foreground => simp [State.setJob, ← hfg hctx]
  | interrupt => simp [State.setJob, ← hirq]

/-! ### The statements -/

/-- Settles O31: the operation is its one write and its answer. -/
theorem serConfigEnablesTheLink : Obligations.SerConfigEnablesTheLink := ⟨by decide, exec_serConfig⟩

/-- Settles O32: the refusal, and the two branches of the push, the link being free for its agent. -/
theorem serPushTxQueuesOrSends : Obligations.SerPushTxQueuesOrSends := by
  refine ⟨fun _ => rfl, fun s b hctx => ?_⟩
  have hfree := serialOwned_eq_false hctx
  refine ⟨exec_serPushTx_off hfree, fun hon hbusy => ?_, fun hon hidle hempty => ?_⟩
  · exact ⟨_, push_isPush _ b, exec_serPushTx hfree (pushTx_busy hon hbusy)⟩
  · exact ⟨_, _, push_isPush _ b, pop_isPop (push_pop hempty b), Queue.inp_push_of_empty hempty b,
      exec_serPushTx hfree (pushTx_idle hon hidle hempty)⟩

/-- Settles O33: the two branches of each pop. -/
theorem serPopsAnswerOldestByte : Obligations.SerPopsAnswerOldestByte := by
  refine ⟨by decide, by decide, fun s => ⟨fun hctx => ?_, fun hempty => ?_, fun hbyte => ?_⟩⟩
  · have hfree := serialOwned_eq_false hctx
    refine ⟨fun hempty => exec_serPopTx_empty hfree (Queue.pop_eq_none hempty), fun hbyte => ?_⟩
    obtain ⟨b, q, hpop⟩ := Queue.pop_eq_some hbyte
    exact ⟨b, q, pop_isPop hpop, exec_serPopTx_byte hfree hpop⟩
  · exact exec_serPopRx_empty (Queue.pop_eq_none hempty)
  · obtain ⟨b, q, hpop⟩ := Queue.pop_eq_some hbyte
    exact ⟨b, q, pop_isPop hpop, exec_serPopRx_byte hpop⟩

/-- Settles O34: the start is the first iteration, and an iteration ends the text or makes the push of
`SER_PUSH_TX`. -/
theorem sendStrIteration : Obligations.SendStrIteration := by
  refine ⟨fun _ => rfl, fun s p hv => ⟨fun hctx => ?_, fun ctx => ⟨fun hend => ?_, fun hbyte hon hidle => ?_⟩⟩⟩
  · have hfree := serialOwned_eq_false hctx
    exact ⟨exec_serSendStr_off hfree, exec_serSendStr_start hfree⟩
  · exact (sendStrStep_zero hend).trans (by cases ctx <;> rfl)
  · refine ⟨_, hostAddr s.cfg p 1, exec_serPushTx rfl (pushTx_afterPushes hon hidle), toNat_hostAddr hv p 1, ?_⟩
    exact (sendStrStep_byte hbyte hon hidle).trans (by cases ctx <;> rfl)

/-- Settles O35: the start and its steps push the text, as one `SER_PUSH_TX` per byte does; what is left to compare is
the answers and the agent's slot, empty before and after. -/
theorem sendStrIsOnePushPerByte : Obligations.SendStrIsOnePushPerByte := by
  intro s p text hv hinbox hctx hirq hfg hon hidle hp hbytes hzero
  have hfree := serialOwned_eq_false hctx
  have htext := textAt_of_read hv hp hbytes hzero
  obtain ⟨t₀, hstart, hsteps⟩ := sendStrStep_steps htext hinbox hirq hon hidle s.ctx
  have hidleSlot : (s.afterPushes text).setJob s.ctx none = s.afterPushes text :=
    setJob_none_of_unheld (s := s.afterPushes text) ⟨hirq, hfg⟩
  rw [hidleSlot] at hsteps
  exact ⟨t₀, _, _, (exec_serSendStr_start hfree hon).trans hstart, hsteps,
    execAll_serPushTx hfree hon hidle text, rfl⟩

/-- Settles O36: the branches of the two events. -/
theorem serialEventsMoveBytes : Obligations.SerialEventsMoveBytes := by
  refine ⟨fun _ => rfl, by decide, fun s b => ⟨exec_evSerRx_disabled, fun hon => ?_, exec_evSerTxc_disabled,
    fun hon hbusy hempty => ?_, fun hon hbusy hbyte => ?_⟩⟩
  · exact ⟨_, push_isPush _ b, exec_evSerRx_push hon⟩
  · exact exec_evSerTxc_end (serTxcEnabled_of_busy hon hbusy) (Queue.pop_eq_none hempty)
  · obtain ⟨c, q, hpop⟩ := Queue.pop_eq_some hbyte
    exact ⟨c, q, pop_isPop hpop, exec_evSerTxc_send (serTxcEnabled_of_busy hon hbusy) hpop⟩

/-- Settles O37: the arrivals append to the empty queue, and the pops answer what it is seen to hold. -/
theorem receiveQueueIsFifo : Obligations.ReceiveQueueIsFifo := by
  intro s bs hon hempty hlen
  rw [execAll_append _ (execAll_evSerRx hon bs)]
  exact execAll_serPopRx (Queue.contents_foldl_push_of_empty hempty hlen)

/-- Settles O38: the pushes put the first byte on the line and queue the others, each event sends the oldest of these,
and the event that finds none ends the transmission. -/
theorem transmitQueueIsFifo : Obligations.TransmitQueueIsFifo := by
  intro s bytes hctx hon hidle hempty hne hlen
  obtain ⟨b, bs, rfl⟩ := List.exists_cons_of_ne_nil hne
  have hlen : bs.length ≤ 127 := Nat.le_of_succ_le_succ hlen
  have hfree := serialOwned_eq_false hctx
  have hevents {k : Nat} (hk : k ≤ bs.length) :=
    execAll_serPushTx_evSerTxc (b := b) hfree hon hidle hempty hlen hk
  refine ⟨fun m hm hmlen => ?_, fun k hk => ?_, ?_⟩
  · obtain ⟨m, rfl⟩ := Nat.exists_eq_add_of_le' hm
    obtain ⟨hbusy, -, -, hfirst⟩ := afterPushes_idle (b := b) hidle hempty ((List.length_take_le' m bs).trans hlen)
    exact ⟨_, execAll_serPushTx hfree hon (fun _ => hempty) _, hfirst, hbusy⟩
  · obtain ⟨t, ht, hsending, -, htrace⟩ := hevents (Nat.le_of_lt_succ hk)
    exact ⟨t, ht, htrace, busy_of_serTxcEnabled hsending⟩
  · obtain ⟨t, ht, hsending, hleft, htrace⟩ := hevents le_rfl
    have hnone : t.ser.tx.inp = t.ser.tx.out := Queue.contents_eq_nil_iff.mp (by rw [hleft, List.drop_length])
    rw [List.length_cons, List.replicate_succ', ← List.append_assoc]
    refine ⟨_, execAll_snoc ht (exec_evSerTxc_end hsending (Queue.pop_eq_none hnone)), ?_, rfl, hnone⟩
    exact htrace.trans (by rw [List.take_of_length_le (by simp)])

/-- Settles O39: the push at 127 makes the indices meet, so the next pop finds nothing and the next arrival is alone. -/
theorem fullQueueReadsAsEmpty : Obligations.FullQueueReadsAsEmpty := by
  intro s b c hctx hon
  have hfree := serialOwned_eq_false hctx
  refine ⟨fun hfull => ?_, fun hfull hbusy => ?_⟩
  · have hwrap := Queue.push_full hfull b
    have hpop := push_pop hwrap c
    have hend : ({ (s.ser.rx.push b).push c with out := (s.ser.rx.push b).out + 1 } : Queue).pop = none :=
      Queue.pop_eq_none (Queue.inp_push_of_empty hwrap c)
    rw [execAll_cons (exec_evSerRx_push hon), execAll_cons (exec_serPopRx_empty (Queue.pop_eq_none hwrap)),
      execAll_cons (exec_evSerRx_push (by exact hon)), execAll_cons (exec_serPopRx_byte (by exact hpop)),
      execAll_cons (exec_serPopRx_empty (by exact hend))]
    exact ⟨_, rfl, Queue.inp_push_of_empty hwrap c, by simp⟩
  · have hwrap := Queue.push_full hfull b
    have henabled := serTxcEnabled_of_busy hon hbusy
    rw [execAll_cons (exec_serPushTx hfree (pushTx_busy hon hbusy)),
      execAll_cons (exec_evSerTxc_end (by exact henabled) (by exact Queue.pop_eq_none hwrap))]
    exact ⟨_, rfl, hwrap, rfl, rfl⟩

end Sys2Proof.Machine
end

section
/-! SUPPORT. External Signal Dispatch (spec/44_extsignal.md R185 to R192): the bind and the edge branch by branch, and
what a write to one line's slot leaves. -/

namespace Sys2Proof.Machine

section
variable {s : State} {l : Line} {h : Word}

/-! ### The slots and the handlers, R31 and R189 -/

/-- Writing a slot's own value changes nothing. -/
@[simp] theorem setLine_line_self : s.setLine l (s.line l) = s := by cases l <;> rfl

/-- A slot write stays within the dispatch unit. -/
theorem setLine_eq (b : Binding) : s.setLine l b = { s with ext := (s.setLine l b).ext } := by cases l <;> rfl

/-- An answer leaves the slots. -/
@[simp] theorem reply_line (op : Opcode) (st : Status) (res : Word) : (s.reply op st res).line l = s.line l :=
  line_congr (reply_ext s op st res) l

theorem dispatch_handler (hne : (s.line l).handler ≠ 0) : dispatch l s = s.invokeLine l (s.line l).handler := if_pos hne

theorem dispatch_noop (hnull : (s.line l).handler = 0) : dispatch l s = s := if_neg (not_not.mpr hnull)

/-- A dispatch only emits, and the no-op handler not even that. -/
theorem dispatch_eq : dispatch l s = { s with
    trace := if (s.line l).handler = 0 then s.trace
      else s.trace ++ [.invoke (lineSite l) 0 (s.line l).handler 0] } := by
  by_cases hnull : (s.line l).handler = 0
  · rw [dispatch_noop hnull, if_pos hnull]
  · rw [dispatch_handler hnull, if_neg hnull]
    rfl

/-! ### The operation, R187 -/

theorem exec_extBind_plain (hne : h ≠ 0) (hplain : (s.cfg.extLatch && (s.line l).latched) = false) :
    exec (.extBind l h) s =
      .next ((s.setLine l { s.line l with handler := h, ie := true }).reply .extBind .ok 0) :=
  (if_pos hne).trans (if_neg (by simpa using hplain))

/-- With `EXT_LATCH`, a remembered edge invokes the new handler at once (R191). -/
theorem exec_extBind_remembered (hne : h ≠ 0) (hedge : (s.cfg.extLatch && (s.line l).latched) = true) :
    exec (.extBind l h) s =
      .next (((s.setLine l { handler := h, ie := true, latched := false }).invokeLine l h).reply .extBind .ok 0) :=
  (if_pos hne).trans (if_pos (by simpa using hedge))

theorem exec_extBind_null :
    exec (.extBind l 0) s =
      .next ((s.setLine l { s.line l with handler := 0, ie := false }).reply .extBind .ok 0) := rfl

/-! ### The event, R188 -/

theorem exec_evExt_enabled (hie : (s.line l).ie = true) :
    exec (.evExt l) s = .next ((dispatch l s).reply .evExt .ok 0) := by simp [exec, execEvExt, hie]

/-- Without `EXT_LATCH` the slot is written with its own value (R191). -/
theorem exec_evExt_disabled (hie : (s.line l).ie = false) :
    exec (.evExt l) s =
      .next ((s.setLine l { s.line l with latched := s.cfg.extLatch || (s.line l).latched }).reply
        .evExt .notEnabled 0) := by
  cases hlatch : s.cfg.extLatch
  · rw [Bool.false_or, setLine_line_self]
    simp [exec, execEvExt, hie, hlatch, Status.failRes]
  · simp [exec, execEvExt, hie, hlatch, Status.failRes]

end

/-! ### The statements -/

/-- Settles O40: the three branches of the operation, each a write to the line's own slot. -/
theorem extBindSetsTheSlot : Obligations.ExtBindSetsTheSlot := by
  refine ⟨fun _ => rfl, fun _ => rfl, fun s l h => ?_⟩
  by_cases hnull : h = 0
  · subst hnull
    exact ⟨_, exec_extBind_null, fun hne => absurd rfl hne, fun hne => absurd rfl hne,
      fun _ => ⟨setLine_line s l _, setLine_trace s l _⟩, fun _ => setLine_line_other s _, by rw [setLine_eq]; rfl⟩
  cases hedge : s.cfg.extLatch && (s.line l).latched
  · exact ⟨_, exec_extBind_plain hnull hedge, fun _ _ => ⟨setLine_line s l _, setLine_trace s l _⟩, fun _ => nofun,
      fun hzero => absurd hzero hnull, fun _ => setLine_line_other s _, by rw [setLine_eq]; rfl⟩
  · refine ⟨_, exec_extBind_remembered hnull hedge, fun _ => nofun, fun _ _ => ⟨setLine_line s l _, ?_⟩,
      fun hzero => absurd hzero hnull, fun _ => setLine_line_other s _, by rw [setLine_eq]; rfl⟩
    exact congrArg (· ++ _) (setLine_trace s l _)

/-- Settles O41: an enabled line is dispatched, and a disabled one has at most its own slot written. -/
theorem edgeInvokesBoundHandler : Obligations.EdgeInvokesBoundHandler := by
  refine ⟨by decide, by decide, fun s l => ?_⟩
  cases hie : (s.line l).ie
  · exact ⟨_, exec_evExt_disabled hie, nofun, fun _ => ⟨setLine_line s l _, fun _ => setLine_line_other s _,
      by rw [setLine_eq]; rfl⟩⟩
  · refine ⟨_, exec_evExt_enabled hie, fun _ => ?_, nofun⟩
    rw [dispatch_eq]
    rfl

/-- Settles O42: the null bind leaves the line disabled, whatever was bound before. -/
theorem unboundLineInvokesNothing : Obligations.UnboundLineInvokesNothing := by
  intro s l h
  obtain ⟨-, -, hbind⟩ := extBindSetsTheSlot
  obtain ⟨t, ht, -⟩ := hbind s l h
  have hdisabled : (((t.setLine l { t.line l with handler := 0, ie := false }).reply .extBind .ok 0).line l).ie
      = false := by rw [reply_line, setLine_line]
  exact ⟨t, _, ht, execAll_snoc (a := [.extBind l 0]) exec_extBind_null (exec_evExt_disabled hdisabled),
    by simp, by simp⟩

end Sys2Proof.Machine
end

section
/-! SUPPORT. Event Scheduler (spec/45_scheduler.md R200 to R216): the due test in the integers, each operation branch by
branch, and a whole refresh pass as an induction over the events that are due. -/

namespace Sys2Proof.Machine

/-! ### Elapsed time and the due test, R207 -/

section
variable {p : Config} (hv : p.valid)
include hv

/-- The wrapped difference of the words is the difference of the integers modulo the width (D23). -/
theorem elapsed_cast (now last : Word) :
    (elapsed p now last : Int) = ((now.toNat : Int) - (last.toNat : Int)) % (2 : Int) ^ p.wMs := by
  have hwidth : (2 : Int) ^ p.wMs ∣ 2 ^ 32 := pow_dvd_pow 2 (valid_wMs hv)
  have hword : ((now - last).toNat : Int) = ((now.toNat : Int) - last.toNat) % 2 ^ 32 := by
    rw [BitVec.toNat_sub]
    omega
  rw [elapsed, Int.natCast_emod, hword, Nat.cast_pow, Nat.cast_ofNat, Int.emod_emod_of_dvd _ hwidth]

/-- `n` milliseconds later, `n` below the wrap of `ms`, the elapsed time is `n`. -/
theorem elapsed_later {now last : Word} {n : Nat} (hn : n < 2 ^ p.wMs)
    (hnow : now.toNat = (last.toNat + n) % 2 ^ p.wMs) : elapsed p now last = n := by
  have hcast : (elapsed p now last : Int) = (n : Int) := by
    rw [elapsed_cast hv, hnow, Int.natCast_emod, Nat.cast_pow, Nat.cast_ofNat, Int.emod_sub_emod, Nat.cast_add,
      add_sub_cancel_left]
    exact Int.emod_eq_of_lt (Int.natCast_nonneg n) (by exact_mod_cast hn)
  exact_mod_cast hcast

/-- `ms` counts `n` ticks modulo its width. -/
theorem advance_iterate_ms {t : TickSource} (hms : t.ms.toNat < 2 ^ p.wMs) (n : Nat) :
    ((TickSource.advance p)^[n] t).ms.toNat = (t.ms.toNat + n) % 2 ^ p.wMs := by
  induction n with
  | zero => exact (Nat.mod_eq_of_lt hms).symm
  | succ n ih =>
    rw [Function.iterate_succ_apply', advance_ms, toNat_wrap (valid_wMs hv), ih, Nat.mod_add_mod, Nat.add_assoc]

end

/-! ### Descriptors, identifiers and the list -/

/-- A descriptor is absent exactly when its `ref` field is 0 (R201). -/
theorem cbAbsent_iff {cb : Word} : cbAbsent cb = true ↔ cb.extractLsb' 0 31 = 0 := by
  have hfield : (cb.extractLsb' 0 31).setWidth 32 = 0 ↔ cb.extractLsb' 0 31 = 0 := by
    simp only [← BitVec.toNat_inj, BitVec.toNat_setWidth, BitVec.ofNat_eq_ofNat, BitVec.toNat_ofNat]
    omega
  simpa [cbAbsent, cbRef] using hfield

theorem cbAbsent_eq_false {cb : Word} (h : cb.extractLsb' 0 31 ≠ 0) : cbAbsent cb = false :=
  Bool.eq_false_iff.mpr (mt cbAbsent_iff.mp h)

/-- The update of `EVT_MODIFY`, the absent callback told by its field (R201, R204). -/
theorem Event.modify_eq (interval cb : Word) (e : Event) :
    e.modify interval cb = { e with interval := interval, cb := if cb.extractLsb' 0 31 = 0 then e.cb else cb } := by
  simp only [Event.modify, cbAbsent_iff]

/-- With no live event the next identifier is free (R203). -/
theorem allocId_nil (p : Config) (n : Word) : allocId p [] n = n := rfl

theorem idLive_eq_false {es : List Event} {id : Word} (h : ∀ x ∈ es, x.id ≠ id) : idLive es id = false := by
  simpa [idLive] using h

section
variable {id : Word} {before after : List Event} {e : Event} (hbefore : ∀ x ∈ before, x.id ≠ id) (he : e.id = id)
include he

theorem idLive_split : idLive (before ++ e :: after) id = true := by simp [idLive, he]

include hbefore

theorem findIdx?_id_split : (before ++ e :: after).findIdx? (fun x => x.id == id) = some before.length := by
  have hnone : before.findIdx? (fun x => x.id == id) = none :=
    List.findIdx?_eq_none_iff.mpr (by simpa using hbefore)
  simp [List.findIdx?_append, List.findIdx?_cons, hnone, he]

theorem eraseP_id_split : (before ++ e :: after).eraseP (fun x => x.id == id) = before ++ after := by
  rw [List.eraseP_append_right _ (by simpa using hbefore), List.eraseP_cons_of_pos (by simpa using he)]

end

/-! ### The operations outside a walk and during one, R202 to R206 and R214 -/

section
variable {s : State}

theorem schedulerMisused_foreground (h : s.ctx = .foreground) : schedulerMisused s = false := by
  simp [schedulerMisused, h]

theorem walkActive_of_ne (h : s.sched.walk ≠ .idle) : walkActive s = true := by simpa [walkActive] using h

theorem walkActive_of_idle (h : s.sched.walk = .idle) : walkActive s = false := by simpa [walkActive] using h

variable (hfg : s.ctx = .foreground)
include hfg

section
variable (hwalk : s.sched.walk ≠ .idle)
include hwalk

theorem exec_evtRegister_walking (interval cb : Word) : exec (.evtRegister interval cb) s = .refused .walkUnderWay := by
  simp [exec, execEvtRegister, schedulerMisused_foreground hfg, walkActive_of_ne hwalk]

theorem exec_evtUnregister_walking (id : Word) : exec (.evtUnregister id) s = .refused .walkUnderWay := by
  simp [exec, execEvtUnregister, schedulerMisused_foreground hfg, walkActive_of_ne hwalk]

theorem exec_evtRefresh_walking : exec .evtRefresh s = .refused .walkUnderWay := by
  simp [exec, execEvtRefresh, schedulerMisused_foreground hfg, walkActive_of_ne hwalk]

end

section
variable {id interval cb : Word}

theorem exec_evtModify_notFound (h : (∀ x ∈ s.sched.events, x.id ≠ id) ∨ interval = 0) :
    exec (.evtModify id interval cb) s = .next (s.reply .evtModify .notFound 0) := by
  simp only [exec, execEvtModify, schedulerMisused_foreground hfg, raise_eq]
  cases hfind : s.sched.events.findIdx? (fun x => x.id == id) with
  | none => rfl
  | some k =>
    have hlive : ¬ ∀ x ∈ s.sched.events, x.id ≠ id := fun hnone => by
      rw [List.findIdx?_eq_none_iff.mpr (by simpa using hnone)] at hfind
      cases hfind
    exact if_pos (h.resolve_left hlive)

theorem exec_evtModify_found {before after : List Event} {e : Event} (hlist : s.sched.events = before ++ e :: after)
    (hbefore : ∀ x ∈ before, x.id ≠ id) (he : e.id = id) (hpos : interval ≠ 0) :
    exec (.evtModify id interval cb) s = .next ((s.withSched { s.sched with
      events := before ++ e.modify interval cb :: after }).reply .evtModify .ok 0) := by
  simp only [exec, execEvtModify, schedulerMisused_foreground hfg, hlist, findIdx?_id_split hbefore he, if_neg hpos,
    modify_split, done_eq]
  rfl

end

variable (hidle : s.sched.walk = .idle)
include hidle

section
variable {interval cb : Word}

theorem exec_evtRegister_full (hfull : s.sched.events.length = evtMax) :
    exec (.evtRegister interval cb) s = .next (s.reply .evtRegister .capacityExceeded 0) := by
  simp [exec, execEvtRegister, schedulerMisused_foreground hfg, walkActive_of_idle hidle, hfull, Status.failRes]

theorem exec_evtRegister_badArg (hroom : s.sched.events.length ≠ evtMax) (hbad : interval = 0 ∨ cbAbsent cb = true) :
    exec (.evtRegister interval cb) s = .next (s.reply .evtRegister .rejectedArg 0) := by
  obtain hbad | hbad := hbad <;>
    simp [exec, execEvtRegister, schedulerMisused_foreground hfg, walkActive_of_idle hidle, hroom, hbad,
      Status.failRes]

theorem exec_evtRegister_accept (hroom : s.sched.events.length ≠ evtMax) (hpos : interval ≠ 0)
    (hcb : cbAbsent cb = false) {id : Word} (hid : allocId s.cfg s.sched.events s.sched.nextId = id) :
    exec (.evtRegister interval cb) s = .next ((s.withSched { s.sched with
      events := s.sched.events ++ [{ id := id, interval := interval, last := s.tick.ms, cb := cb }]
      nextId := wrap s.cfg.wId (id.toNat + 1) }).reply .evtRegister .ok id) := by
  subst hid
  simp only [exec, execEvtRegister, schedulerMisused_foreground hfg, walkActive_of_idle hidle, hcb, if_neg hroom,
    if_neg hpos, done_eq]
  rfl

end

section
variable {id : Word}

theorem exec_evtUnregister_notFound (hnone : ∀ x ∈ s.sched.events, x.id ≠ id) :
    exec (.evtUnregister id) s = .next (s.reply .evtUnregister .notFound 0) := by
  simp [exec, execEvtUnregister, schedulerMisused_foreground hfg, walkActive_of_idle hidle, idLive_eq_false hnone,
    Status.failRes]

theorem exec_evtUnregister_found {before after : List Event} {e : Event} (hlist : s.sched.events = before ++ e :: after)
    (hbefore : ∀ x ∈ before, x.id ≠ id) (he : e.id = id) :
    exec (.evtUnregister id) s = .next ((s.withSched { s.sched with
      events := before ++ after }).reply .evtUnregister .ok 0) := by
  simp only [exec, execEvtUnregister, schedulerMisused_foreground hfg, walkActive_of_idle hidle, hlist,
    idLive_split he, eraseP_id_split hbefore he, done_eq]
  rfl

end

/-- R206: a refresh at the value of `ms` the previous one read. -/
theorem exec_evtRefresh_same (hsame : s.tick.ms = s.sched.prevMs) :
    exec .evtRefresh s = .next (s.reply .evtRefresh .ok 0) := by
  simp [exec, execEvtRefresh, schedulerMisused_foreground hfg, walkActive_of_idle hidle, hsame]

section
variable (hnew : s.tick.ms ≠ s.sched.prevMs)
include hnew

theorem exec_evtRefresh_pass :
    exec .evtRefresh s = .next (advance s.tick.ms 0 (s.withSched { s.sched with
      prevMs := s.tick.ms, walk := .walking s.tick.ms 0 })) := by
  simp only [exec, execEvtRefresh, schedulerMisused_foreground hfg, walkActive_of_idle hidle, if_neg hnew]
  rfl

theorem exec_evtRefresh_none (hnone : ∀ x ∈ s.sched.events, x.due s.cfg s.tick.ms = false) :
    exec .evtRefresh s = .next ((s.withSched { s.sched with prevMs := s.tick.ms }).reply .evtRefresh .ok 0) := by
  rw [exec_evtRefresh_pass hfg hidle hnew, advance_none, ← hidle]
  · rfl
  · exact hnone

theorem exec_evtRefresh_first {before after : List Event} {e : Event} (hlist : s.sched.events = before ++ e :: after)
    (hbefore : ∀ x ∈ before, x.due s.cfg s.tick.ms = false) (he : e.due s.cfg s.tick.ms = true) :
    exec .evtRefresh s = .next ((s.withSched { s.sched with
      prevMs := s.tick.ms, walk := .waitCb s.tick.ms before.length }).invokeCallback e) := by
  rw [exec_evtRefresh_pass hfg hidle hnew, advance_some (before := before) (after := after) (e := e), Nat.zero_add]
  · rfl
  · exact hlist
  · exact hbefore
  · exact he

end

end

/-! ### The return of a callback, R213 -/

section
variable {s : State} (hfg : s.ctx = .foreground)
include hfg

theorem exec_evtCbDone_refused (hwalk : ∀ now pos, s.sched.walk ≠ .waitCb now pos) :
    exec .evtCbDone s = .refused .noCallback := by
  simp only [exec, execEvtCbDone, schedulerMisused_foreground hfg]
  cases h : s.sched.walk with
  | idle | walking now pos => rfl
  | waitCb now pos => exact absurd h (hwalk now pos)

theorem exec_evtCbDone_pass {now : Word} {pos : Nat} (hwalk : s.sched.walk = .waitCb now pos)
    (hpos : pos < s.sched.events.length) :
    exec .evtCbDone s = .next ((advance now (pos + 1) (s.withSched { s.sched with
      events := s.sched.events.modify pos (stampLast now), walk := .walking now (pos + 1) })).reply
        .evtCbDone .ok 0) := by
  simp only [exec, execEvtCbDone, schedulerMisused_foreground hfg, hwalk, if_pos hpos]
  rfl

variable {now : Word} {before after : List Event} {e : Event} (hwalk : s.sched.walk = .waitCb now before.length)
  (hlist : s.sched.events = before ++ e :: after)
include hwalk hlist

theorem exec_evtCbDone_split :
    exec .evtCbDone s = .next ((advance now (before.length + 1) (s.withSched { s.sched with
      events := before ++ stampLast now e :: after, walk := .walking now (before.length + 1) })).reply
        .evtCbDone .ok 0) := by
  rw [exec_evtCbDone_pass hfg hwalk (by simp [hlist]), hlist, modify_split]

/-- The stamped record stands before the place where the walk goes on. -/
theorem exec_evtCbDone_last (hnone : ∀ x ∈ after, x.due s.cfg now = false) :
    exec .evtCbDone s = .next (((s.withSched { s.sched with
      events := before ++ stampLast now e :: after, walk := .idle }).reply .evtRefresh .ok 0).reply
        .evtCbDone .ok 0) := by
  rw [exec_evtCbDone_split hfg hwalk hlist, advance_none]
  · rfl
  · rw [withSched_sched, List.drop_length_add_append]
    exact hnone

theorem exec_evtCbDone_next {skipped later : List Event} {d : Event} (hafter : after = skipped ++ d :: later)
    (hskipped : ∀ x ∈ skipped, x.due s.cfg now = false) (hd : d.due s.cfg now = true) :
    exec .evtCbDone s = .next (((s.withSched { s.sched with
      events := before ++ stampLast now e :: after
      walk := .waitCb now (before.length + 1 + skipped.length) }).invokeCallback d).reply .evtCbDone .ok 0) := by
  rw [exec_evtCbDone_split hfg hwalk hlist, advance_some (before := skipped) (after := later) (e := d)]
  · rfl
  · rw [withSched_sched, List.drop_length_add_append, List.drop_succ_cons, List.drop_zero, hafter]
  · exact hskipped
  · exact hd

end

/-! ### A whole pass, R206 to R213 -/

/-- What the trace shows of an event's callback (R50, R212). -/
def Event.invocation (e : Event) : TraceEvent := .invoke .sched (cbKind e.cb) (cbRef e.cb) e.id

/-- A record after a pass with the sample `now`: stamped if it was due (R213). -/
def Event.refreshed (p : Config) (now : Word) (e : Event) : Event := if e.due p now then stampLast now e else e

section
variable {p : Config} {now : Word} {before after : List Event} {e : Event}

theorem map_refreshed_none (h : ∀ x ∈ before, x.due p now = false) : before.map (Event.refreshed p now) = before :=
  (List.map_congr_left fun x hx => if_neg (by simp [h x hx])).trans (List.map_id before)

theorem map_refreshed_split (h : ∀ x ∈ before, x.due p now = false) (he : e.due p now = true) :
    (before ++ e :: after).map (Event.refreshed p now) =
      before ++ stampLast now e :: after.map (Event.refreshed p now) := by
  rw [List.map_append, map_refreshed_none h, List.map_cons, Event.refreshed, if_pos he]

end

/-- From `s`, a pass runs to its end in `t`: it has invoked `fired`, left `x` in the scheduler, and neither moved the
clock nor changed the context. -/
structure RunsPass (s t : State) (fired : List Event) (x : Scheduler) : Prop where
  trace : t.trace = s.trace ++ fired.map Event.invocation
  sched : t.sched = x
  tick : t.tick = s.tick
  ctx : t.ctx = s.ctx

/-- A pass that still has `fired` to invoke, seen from before the callback it has just invoked. -/
theorem RunsPass.cons {s u t : State} {d : Event} {fired : List Event} {x y : Scheduler} (h : RunsPass u t fired x)
    (htrace : u.trace = s.trace ++ [d.invocation]) (htick : u.tick = s.tick) (hctx : u.ctx = s.ctx) (hxy : x = y) :
    RunsPass s t (d :: fired) y where
  trace := by rw [h.trace, htrace, List.map_cons, List.append_assoc, List.singleton_append]
  sched := h.sched.trans hxy
  tick := h.tick.trans htick
  ctx := h.ctx.trans hctx

/-- From the wait for one callback to the end of the pass: the return of that callback, and of the callback of each
event due behind it. Each return leads to the next of `fired`, so the induction is over them. -/
theorem execAll_evtCbDone {fired : List Event} {s : State} {now : Word} {before after : List Event} {e : Event}
    (hfired : after.filter (fun x => x.due s.cfg now) = fired) (hfg : s.ctx = .foreground)
    (hwalk : s.sched.walk = .waitCb now before.length) (hlist : s.sched.events = before ++ e :: after) :
    ∃ t, execAll (List.replicate (fired.length + 1) .evtCbDone) s = .next t ∧ RunsPass s t fired { s.sched with
      events := before ++ stampLast now e :: after.map (Event.refreshed s.cfg now), walk := .idle } := by
  induction fired generalizing s before after e with
  | nil =>
    have hnone : ∀ x ∈ after, x.due s.cfg now = false := by simpa [List.filter_eq_nil_iff] using hfired
    rw [map_refreshed_none hnone]
    exact ⟨_, execAll_cons (exec_evtCbDone_last hfg hwalk hlist hnone), (List.append_nil _).symm, rfl, rfl, rfl⟩
  | cons d fired ih =>
    obtain ⟨skipped, later, rfl, hskipped, hd, hlater⟩ := List.filter_eq_cons_iff.mp hfired
    simp only [Bool.not_eq_true] at hskipped
    obtain ⟨t, hrun, hpass⟩ := ih (before := before ++ stampLast now e :: skipped) (after := later) (e := d)
      (s := ((s.withSched { s.sched with
        events := before ++ stampLast now e :: (skipped ++ d :: later)
        walk := .waitCb now (before.length + 1 + skipped.length) }).invokeCallback d).reply .evtCbDone .ok 0)
      hlater hfg (by simp; omega) (by simp)
    refine ⟨t, (execAll_cons (exec_evtCbDone_next hfg hwalk hlist rfl hskipped hd)).trans hrun,
      hpass.cons rfl rfl rfl ?_⟩
    rw [map_refreshed_split hskipped hd, List.append_assoc]
    rfl

/-- One refresh with each callback returning at once: up to the first due event's callback, and from there on. -/
theorem execAll_evtRefresh {fired : List Event} {s : State}
    (hfired : s.sched.events.filter (fun x => x.due s.cfg s.tick.ms) = fired) (hfg : s.ctx = .foreground)
    (hidle : s.sched.walk = .idle) (hnew : s.tick.ms ≠ s.sched.prevMs) :
    ∃ t, execAll (.evtRefresh :: List.replicate fired.length .evtCbDone) s = .next t ∧ RunsPass s t fired { s.sched with
      events := s.sched.events.map (Event.refreshed s.cfg s.tick.ms), prevMs := s.tick.ms } := by
  cases fired with
  | nil =>
    have hnone : ∀ x ∈ s.sched.events, x.due s.cfg s.tick.ms = false := by
      simpa [List.filter_eq_nil_iff] using hfired
    rw [map_refreshed_none hnone]
    exact ⟨_, execAll_cons (exec_evtRefresh_none hfg hidle hnew hnone), (List.append_nil _).symm, rfl, rfl, rfl⟩
  | cons e fired =>
    obtain ⟨before, after, hlist, hbefore, he, hafter⟩ := List.filter_eq_cons_iff.mp hfired
    simp only [Bool.not_eq_true] at hbefore
    obtain ⟨t, hrun, hpass⟩ := execAll_evtCbDone (before := before) (after := after) (e := e)
      (s := (s.withSched { s.sched with
        prevMs := s.tick.ms, walk := .waitCb s.tick.ms before.length }).invokeCallback e)
      hafter hfg rfl hlist
    refine ⟨t, (execAll_cons (exec_evtRefresh_first hfg hidle hnew hlist hbefore he)).trans hrun,
      hpass.cons rfl rfl rfl ?_⟩
    rw [hlist, map_refreshed_split hbefore he, ← hidle]
    rfl

/-! ### One event, long overdue, R216 -/

/-- An event is registered, and `n` milliseconds pass (R202, R112). -/
theorem execAll_evtRegister_evTicks {s : State} {interval cb id : Word} (n : Nat) (hfg : s.ctx = .foreground)
    (hidle : s.sched.walk = .idle) (hroom : s.sched.events.length ≠ evtMax) (hpos : interval ≠ 0)
    (hcb : cbAbsent cb = false) (hid : allocId s.cfg s.sched.events s.sched.nextId = id) :
    ∃ t, execAll ([.evtRegister interval cb] ++ List.replicate n .evTick) s = .next t ∧
      t.cfg = s.cfg ∧ t.ctx = s.ctx ∧ t.trace = s.trace ∧ t.tick = (TickSource.advance s.cfg)^[n] s.tick ∧
      t.sched = { s.sched with
        events := s.sched.events ++ [{ id := id, interval := interval, last := s.tick.ms, cb := cb }]
        nextId := wrap s.cfg.wId (id.toNat + 1) } :=
  ⟨_, (execAll_cons (exec_evtRegister_accept hfg hidle hroom hpos hcb hid)).trans (execAll_evTicks n _),
    rfl, rfl, rfl, rfl, rfl⟩

/-- Two refreshes at one tick fire the one live event, which is due, at the first. -/
theorem execAll_evtRefresh_twice {s : State} {e : Event} (hfg : s.ctx = .foreground) (hidle : s.sched.walk = .idle)
    (hnew : s.tick.ms ≠ s.sched.prevMs) (hlist : s.sched.events = [e]) (hdue : e.due s.cfg s.tick.ms = true) :
    ∃ t, execAll [.evtRefresh, .evtCbDone, .evtRefresh] s = .next t ∧
      t.trace = s.trace ++ [e.invocation] ∧ t.sched.events = [stampLast s.tick.ms e] ∧ t.sched.walk = .idle := by
  obtain ⟨t, hrun, htrace, hsched, htick, hctx⟩ :=
    execAll_evtRefresh (fired := [e]) (by simp [hlist, hdue]) hfg hidle hnew
  have hagain : exec .evtRefresh t = .next (t.reply .evtRefresh .ok 0) :=
    exec_evtRefresh_same (hctx.trans hfg) (by rw [hsched, hidle]) (by rw [htick, hsched])
  exact ⟨_, execAll_snoc hrun hagain, htrace, by simp [hsched, hlist, Event.refreshed, hdue], by simp [hsched, hidle]⟩

/-! ### During a walk, R214 -/

/-- `EVT_MODIFY` does not read where the walk stands. -/
theorem exec_evtModify_setWalk (s : State) (w : Walk) (id interval cb : Word) :
    exec (.evtModify id interval cb) (s.setWalk w) = mapNext (·.setWalk w) (exec (.evtModify id interval cb) s) := by
  cases h : s.sched.events.findIdx? (fun x => x.id == id) <;>
    simp only [exec, execEvtModify, mapNext_ite, setWalk_sched, h] <;> rfl

/-! ### The statements -/

/-- Settles O43: the words' difference, reduced, is the integers' difference modulo the width. -/
theorem dueTestIsModularElapsedTime : Obligations.DueTestIsModularElapsedTime := by
  intro p now e hv
  rw [Event.due, decide_eq_true_iff, ← elapsed_cast hv, Nat.cast_le]

/-- Settles O44: one branch of the operation for each clause; the identifier is what the scan stops at. -/
theorem registerAppendsFreshEvent : Obligations.RegisterAppendsFreshEvent := by
  refine ⟨fun _ _ => rfl, fun s interval cb hv hfg hnext hlen => ⟨fun hwalk => exec_evtRegister_walking hfg hwalk _ _,
    fun hidle hfull => exec_evtRegister_full hfg hidle hfull,
    fun hidle hroom hbad => exec_evtRegister_badArg hfg hidle hroom.ne (hbad.imp_right cbAbsent_iff.mpr),
    fun hidle hroom hpos hcb => ?_⟩⟩
  obtain ⟨k, hid, hlive, hfresh⟩ := allocId_spec hv hlen hnext
  exact ⟨_, _, k, hid, hfresh, hlive, toNat_wrap (valid_wId hv),
    exec_evtRegister_accept hfg hidle hroom.ne hpos (cbAbsent_eq_false hcb) rfl⟩

/-- Settles O45: the search for the identifier stops at the record after `before`. -/
theorem modifyUpdatesTheRecord : Obligations.ModifyUpdatesTheRecord := by
  refine ⟨fun _ _ _ => rfl, fun s id interval cb hfg => ⟨fun h => exec_evtModify_notFound hfg h,
    fun before after e hlist hbefore he hpos => ?_⟩⟩
  rw [exec_evtModify_found hfg hlist hbefore he hpos, Event.modify_eq]
  rfl

/-- Settles O46: the erased record is the first with the identifier. -/
theorem unregisterRemovesTheRecord : Obligations.UnregisterRemovesTheRecord :=
  ⟨fun _ => rfl, fun _ _ hfg => ⟨fun hwalk => exec_evtUnregister_walking hfg hwalk _,
    fun hidle hnone => exec_evtUnregister_notFound hfg hidle hnone,
    fun _ _ _ hidle hlist hbefore he => exec_evtUnregister_found hfg hidle hlist hbefore he⟩⟩

/-- Settles O47: the pass stops at the first due record, or at the end of the list. -/
theorem refreshInvokesFirstDueEvent : Obligations.RefreshInvokesFirstDueEvent :=
  ⟨by decide, fun _ hfg => ⟨exec_evtRefresh_walking hfg, fun hidle hsame => exec_evtRefresh_same hfg hidle hsame,
    fun hidle hnew hnone => exec_evtRefresh_none hfg hidle hnew hnone,
    fun _ _ _ hidle hnew hlist hbefore he => exec_evtRefresh_first hfg hidle hnew hlist hbefore he⟩⟩

/-- Settles O48: the record at the walk's position is stamped, and the search goes on behind it. -/
theorem callbackDoneStampsAndGoesOn : Obligations.CallbackDoneStampsAndGoesOn := by
  refine ⟨by decide, fun _ hfg hwalk => exec_evtCbDone_refused hfg hwalk,
    fun s now before after e hfg hwalk hlist => ⟨fun hnone => ?_, fun skipped later d hafter hskipped hd =>
      exec_evtCbDone_next hfg hwalk hlist hafter hskipped hd⟩⟩
  rw [exec_evtCbDone_last hfg hwalk hlist hnone, reply_eq, reply_answers, List.append_assoc]
  rfl

/-- Settles O49: the whole pass, by the induction over the due events. -/
theorem refreshFiresEachDueEventOnce : Obligations.RefreshFiresEachDueEventOnce := by
  intro s hfg hidle hnew
  obtain ⟨t, hrun, hpass⟩ := execAll_evtRefresh rfl hfg hidle hnew
  exact ⟨t, hrun, hpass.trace, hpass.sched⟩

/-- Settles O50: after `n` ticks the elapsed time is `n`, so the one record is due; its callback's return stamps it,
and the second refresh finds `ms` as it was. -/
theorem lateRefreshFiresOnce : Obligations.LateRefreshFiresOnce := by
  intro s interval cb n hv hfg hidle hempty hnext hms hpos hcb hlate hn hnew
  obtain ⟨u, hstart, hcfg, hctx, hquiet, htick, hsched⟩ := execAll_evtRegister_evTicks n hfg hidle (by simp [hempty])
    hpos (cbAbsent_eq_false hcb) (hempty ▸ allocId_nil s.cfg s.sched.nextId)
  rw [hempty, List.nil_append] at hsched
  have hnow : u.tick.ms.toNat = (s.tick.ms.toNat + n) % 2 ^ s.cfg.wMs := by
    rw [htick, advance_iterate_ms hv hms]
  have hdue : interval.toNat ≤ elapsed u.cfg u.tick.ms s.tick.ms := by
    rwa [hcfg, elapsed_later hv hn hnow]
  have hfresh : u.tick.ms ≠ u.sched.prevMs := fun hsame => hnew (by rw [← hnow, hsame, hsched])
  obtain ⟨t, hfire, htrace, hevents, hwalk⟩ := execAll_evtRefresh_twice (hctx.trans hfg) (by rw [hsched, hidle]) hfresh
    (by rw [hsched]) (decide_eq_true hdue)
  exact ⟨t, u.tick.ms, hnow, (execAll_append _ hstart).trans hfire, hquiet ▸ htrace, hevents, hwalk⟩

/-- Settles O51: the refusals test the walk, and nothing else that runs during one reads it but the callback's
return. -/
theorem operationsDuringWalk : Obligations.OperationsDuringWalk :=
  fun s hfg hwalk => ⟨exec_evtRegister_walking hfg hwalk, exec_evtUnregister_walking hfg hwalk,
    exec_evtRefresh_walking hfg hwalk, fun _ hi => exec_withSched (s.setWalk .idle) s.sched hi,
    exec_evtModify_setWalk (s.setWalk .idle) s.sched.walk,
    fun _ _ hwait hpos => ⟨_, exec_evtCbDone_pass hfg hwait hpos⟩⟩

end Sys2Proof.Machine
end

section
/-! SUPPORT. What takes the place of exceptions (spec/60_exceptions.md R230, R231, R245): no fault from a state that
satisfies the invariant, what each operation can answer, and the refusals from interrupt context. -/

namespace Sys2Proof.Machine

/-! ### No fault where the invariant holds, R230 -/

/-- The outcome is no fault. -/
def NoFault (r : Result) : Prop := ∀ x : Fault, r ≠ .fault x

@[simp] theorem noFault_next {t : State} : NoFault (.next t) := by simp [NoFault]
@[simp] theorem noFault_refused {r : Refusal} : NoFault (.refused r) := by simp [NoFault]

theorem noFault_ite {c : Prop} [Decidable c] {r r' : Result} :
    NoFault (if c then r else r') ↔ (c → NoFault r) ∧ (¬ c → NoFault r') := by
  split <;> simp [*]

/-- Where R171 holds no push faults. -/
theorem sendStrStep_noFault {ctx : Context} {p : Word} {s : State} (h : s.ser.Inv) :
    NoFault (sendStrStep ctx p s) := by
  simp only [sendStrStep, noFault_ite, done_eq]
  refine ⟨fun _ => noFault_next, fun _ => ?_⟩
  cases hpush : pushTx (memRead s p) s with
  | next t => exact noFault_next
  | fault r => exact absurd hpush (pushTx_no_fault h r)
  | refused r => exact noFault_refused

/-- The byte a legal operation moves next lies within the store (R143). -/
theorem transferStep_noFault {ctx : Context} {j : Transfer} {s : State} (h : Inv s) (hj : j.legal s = true) :
    NoFault (transferStep ctx j s) := by
  cases j with
  | nvRead a b c i =>
    have hwithin : a.toNat + i < s.cfg.nvSize := by
      simp only [Transfer.legal, Bool.and_eq_true, decide_eq_true_eq] at hj
      omega
    rw [transferStep, nvReadStep_within hwithin]
    exact noFault_next
  | sendStr p => exact sendStrStep_noFault (inv_ser h)

/-- Both agents' operations under way are legal. -/
theorem goOn_noFault {s : State} (h : Inv s) : NoFault (goOn s) := by
  obtain ⟨-, -, -, -, -, -, -, -, -, hfg, hirq⟩ := id h
  unfold goOn
  split
  · next j hj => exact transferStep_noFault h (hirq j hj)
  · next j _ hj => exact transferStep_noFault h (hfg j hj)
  · exact noFault_next

/-- There is a buffer for each channel, the selected one too (R24). -/
theorem exists_channel {s : State} (h : Inv s) {channel : Nat} (hch : channel < s.cfg.nCh) :
    ∃ c, s.adc.channels[channel]? = some c := by
  obtain ⟨hlen, -⟩ := inv_adc h
  exact ⟨_, List.getElem?_eq_getElem (hlen ▸ hch)⟩

/-- A job with a byte left has it within the store (R142). -/
theorem execEvNvReady_noFault {s : State} (h : Inv s) : NoFault (execEvNvReady s) := by
  simp only [execEvNvReady, noFault_ite, done_eq, raise_eq]
  refine ⟨fun hen => ⟨fun _ => noFault_next, fun hrem => ⟨fun hpast => ?_, fun _ => noFault_next⟩⟩,
    fun _ => noFault_next⟩
  exact absurd hpast (Nat.not_le.mpr (nv_addr_lt h hen hrem))

/-- A walk that waits for a callback stands at a record (R213). -/
theorem execEvtCbDone_noFault {s : State} (h : Inv s) : NoFault (execEvtCbDone s) := by
  obtain ⟨-, -, -, -, -, hsettled⟩ := inv_sched h
  simp only [execEvtCbDone, noFault_ite]
  refine ⟨fun _ => noFault_refused, fun _ => ?_⟩
  cases hwalk : s.sched.walk with
  | idle | walking now pos => exact noFault_refused
  | waitCb now pos =>
    have hpos : pos < s.sched.events.length := by
      simp only [hwalk, Walk.settled, Bool.and_eq_true, decide_eq_true_eq] at hsettled
      exact hsettled.2
    simp only [if_pos hpos, done_eq, noFault_next]

/-- No instruction with its operands in range faults: the four accesses that could are within their bounds, and the
other instructions have no branch that does. -/
theorem exec_noFault {i : Instr} {s : State} (h : Inv s) (hwf : i.wf s.cfg = true) : NoFault (exec i s) := by
  cases i with
  | adcRead channel =>
    obtain ⟨c, hc⟩ := exists_channel h (of_decide_eq_true hwf)
    rw [exec_adcRead hc]
    exact noFault_next
  | evAdcDone sample =>
    obtain ⟨-, -, hch, -⟩ := inv_adc h
    obtain ⟨c, hc⟩ := exists_channel h hch
    simp [exec, execEvAdcDone, hc, noFault_ite]
  | nvRead address destination size =>
    simp only [exec, execNvRead, noFault_ite, done_eq, raise_eq]
    refine ⟨fun _ => noFault_next, fun _ => ⟨fun _ => noFault_next, fun hfits => ⟨fun _ => noFault_next,
      fun hsize => ?_⟩⟩⟩
    have hpos := toNat_pos_of_ne hsize
    rw [nvReadStep_within (by omega)]
    exact noFault_next
  | evNvReady => exact execEvNvReady_noFault h
  | serPushTx byte =>
    simp only [exec, execSerPushTx, noFault_ite]
    refine ⟨fun _ => noFault_refused, fun _ => ?_⟩
    cases hpush : pushTx byte s with
    | next t => exact noFault_next
    | fault r => exact absurd hpush (pushTx_no_fault (inv_ser h) r)
    | refused r => exact noFault_refused
  | serSendStr text => simp [exec, execSerSendStr, noFault_ite, sendStrStep_noFault (inv_ser h)]
  | evtCbDone => exact execEvtCbDone_noFault h
  | nowMs | nowS | nvBusy | serConfig | evTick => exact noFault_next
  | adcStart => simp [exec, execAdcStart, noFault_ite]
  | adcPower on => cases on <;> exact noFault_next
  | nvWrite address source size => simp [exec, execNvWrite, noFault_ite]
  | serPopTx =>
    simp only [exec, execSerPopTx, noFault_ite]
    refine ⟨by simp, fun _ => ?_⟩
    split <;> exact noFault_next
  | serPopRx => simp only [exec, execSerPopRx]; split <;> exact noFault_next
  | evSerRx byte => simp [exec, execEvSerRx, noFault_ite]
  | evSerTxc =>
    simp only [exec, execEvSerTxc, noFault_ite]
    refine ⟨fun _ => ?_, by simp⟩
    split <;> exact noFault_next
  | extBind line handler => simp [exec, execExtBind, noFault_ite]
  | evExt line => simp [exec, execEvExt, noFault_ite]
  | evtRegister interval callback => simp [exec, execEvtRegister, noFault_ite]
  | evtModify id interval callback =>
    simp only [exec, execEvtModify, noFault_ite]
    refine ⟨by simp, fun _ => ?_⟩
    split <;> simp [noFault_ite]
  | evtUnregister id => simp [exec, execEvtUnregister, noFault_ite]
  | evtRefresh => simp [exec, execEvtRefresh, noFault_ite]

theorem takeFrame_noFault {ctx : Context} {F : Frame} {s : State} (h : Inv s) : NoFault (takeFrame ctx F s) := by
  have hissued : Inv (s.issuedBy ctx F) := by unfold State.issuedBy; split <;> exact h
  cases hd : decode s.cfg F with
  | error e => rw [takeFrame_illegal hd]; exact noFault_next
  | ok i => rw [takeFrame_ok hd]; exact exec_noFault hissued (by rw [issuedBy_cfg]; exact wf_of_decode hd)

theorem takeTurn_noFault {u : Turn} {rest : List Turn} {s : State} (h : Inv s) : NoFault (takeTurn u rest s) := by
  have hrest : Inv { s with inbox := rest } := h
  cases u with
  | frame ctx F =>
    simp only [takeTurn, noFault_ite]
    exact ⟨fun _ => goOn_noFault h, fun _ => takeFrame_noFault hrest⟩
  | goOn => exact goOn_noFault hrest
  | store addr b => simp [takeTurn, hostStore, noFault_ite]
  | reset => exact noFault_next

theorem step_noFault {s : State} (h : Inv s) : NoFault (step s) := by
  cases hin : s.inbox with
  | nil => rw [step_idle hin]; exact goOn_noFault h
  | cons u rest => rw [step_cons hin]; exact takeTurn_noFault h

/-! ### The answers of an operation, R230 and R231 -/

/-- From `s` to `t` nothing is answered but `OK`, and something is exactly if `ended`. -/
def AnswersOk (s t : State) (ended : Prop) : Prop :=
  ∃ new : List Answer, t.answers = s.answers ++ new ∧ (∀ a ∈ new, a.status = .ok) ∧ (new ≠ [] ↔ ended)

section
variable {s t : State} {ended ended' : Prop}

theorem answersOk_silent (h : t.answers = s.answers) (hopen : ¬ ended) : AnswersOk s t ended :=
  ⟨[], by simp [h], by simp, by simp [hopen]⟩

/-- One answer more. -/
theorem AnswersOk.reply (h : AnswersOk s t ended) (hended : ended') {op : Opcode} {v : Word} :
    AnswersOk s (t.reply op .ok v) ended' := by
  obtain ⟨new, hnew, hok, -⟩ := h
  refine ⟨new ++ [{ op := some op, status := .ok, res := v }], by simp [hnew], fun a ha => ?_, by simp [hended]⟩
  obtain ha | ha := List.mem_append.mp ha
  · exact hok a ha
  · rw [List.mem_singleton.mp ha]

/-- The answer of an operation that ends in its own step. -/
theorem answersOk_reply (h : t.answers = s.answers) (hended : ended) {op : Opcode} {v : Word} :
    AnswersOk s (t.reply op .ok v) ended := (answersOk_silent h not_false).reply hended

end

theorem pushTx_answers (b : Byte) (s : State) : AllNext (fun t => t.answers = s.answers) (pushTx b s) := by
  intro t h
  obtain ⟨-, ⟨-, rfl⟩ | ⟨-, c, q, -, rfl⟩⟩ := pushTx_next h <;> rfl

/-- `NV_READ` answers with its last byte (R143). -/
theorem nvReadStep_answers (ctx : Context) (a b c : Word) (i : Nat) (s : State) :
    AllNext (fun t => AnswersOk s t (t.job ctx = none)) (nvReadStep ctx a b c i s) := by
  intro t h
  obtain ⟨-, ⟨-, rfl⟩ | ⟨-, rfl⟩⟩ := nvReadStep_next h
  · exact answersOk_silent (setJob_answers _ _ _) (by simp)
  · exact answersOk_reply (setJob_answers _ _ _) (setJob_job _ _ _)

/-- `SER_SEND_STR` answers at the terminating zero (R164). -/
theorem sendStrStep_answers (ctx : Context) (p : Word) (s : State) :
    AllNext (fun t => AnswersOk s t (t.job ctx = none)) (sendStrStep ctx p s) := by
  intro t h
  obtain ⟨-, rfl⟩ | ⟨-, u, hu, rfl⟩ := sendStrStep_next h
  · exact answersOk_reply (setJob_answers _ _ _) (setJob_job _ _ _)
  · exact answersOk_silent ((setJob_answers _ _ _).trans (pushTx_answers _ s u hu)) (by simp)

theorem transferStep_answers (ctx : Context) (j : Transfer) (s : State) :
    AllNext (fun t => AnswersOk s t (t.job ctx = none)) (transferStep ctx j s) := by
  cases j with
  | nvRead a b c i => exact nvReadStep_answers ctx a b c i s
  | sendStr p => exact sendStrStep_answers ctx p s

/-- The pending `EVT_REFRESH` is answered where the walk ends (R212). -/
theorem advance_answers (now : Word) (pos : Nat) (s : State) :
    AnswersOk s (advance now pos s) ((advance now pos s).sched.walk = .idle) := by
  unfold advance
  split
  · exact answersOk_silent rfl (by simp)
  · exact answersOk_reply rfl rfl

/-- The operations that have no cause of rejection (R231). -/
def neverRejecting : List Opcode :=
  [.nowMs, .nowS, .adcStart, .adcRead, .adcPower, .nvBusy, .serConfig, .serPushTx, .serSendStr, .extBind, .evtRefresh,
    .evtCbDone]

/-- Whether such an operation, taking `s` to `t`, has ended in its own step (R12). -/
def EndsInStep (op : Opcode) (s t : State) : Prop :=
  match op with
  | .serSendStr => t.job s.ctx = none
  | .evtRefresh => t.sched.walk = .idle
  | _ => True

/-- R231, operation by operation. -/
theorem exec_answersOk {i : Instr} (hi : i.opcode ∈ neverRejecting) (s : State) :
    AllNext (fun t => AnswersOk s t (EndsInStep i.opcode s t)) (exec i s) := by
  cases i with
  | nowMs | nowS | nvBusy | serConfig => exact allNext_next.mpr (answersOk_reply rfl trivial)
  | adcStart =>
    simp only [exec, execAdcStart, allNext_ite, done_eq, allNext_next, allNext_refused]
    exact ⟨fun _ => trivial, fun _ => ⟨fun _ => answersOk_reply rfl trivial, fun _ => answersOk_reply rfl trivial⟩⟩
  | adcRead channel =>
    simp only [exec, execAdcRead]
    split
    · exact allNext_fault
    · exact allNext_next.mpr (answersOk_reply rfl trivial)
  | adcPower on => cases on <;> exact allNext_next.mpr (answersOk_reply rfl trivial)
  | serPushTx byte =>
    intro t ht
    obtain ⟨u, hu, rfl⟩ := execSerPushTx_next ht
    exact answersOk_reply (pushTx_answers byte s u hu) trivial
  | serSendStr text =>
    simp only [exec, execSerSendStr, allNext_ite, allNext_refused]
    exact ⟨fun _ => trivial, fun _ => ⟨fun _ => trivial, fun _ => sendStrStep_answers s.ctx text s⟩⟩
  | extBind line handler =>
    simp only [exec, execExtBind, allNext_ite, done_eq, allNext_next]
    have hbind (b : Binding) : AnswersOk s ((s.setLine line b).reply .extBind .ok 0) True :=
      answersOk_reply (setLine_answers _ _ _) trivial
    exact ⟨fun _ => ⟨fun _ => hbind _, fun _ => hbind _⟩, fun _ => hbind _⟩
  | evtRefresh =>
    simp only [exec, execEvtRefresh, allNext_ite, done_eq, allNext_next, allNext_refused]
    refine ⟨fun _ => trivial, fun _ => ⟨fun _ => trivial, fun hidle => ⟨fun _ => ?_, fun _ => advance_answers _ _ _⟩⟩⟩
    have hwalk : s.sched.walk = .idle := walk_idle (by simpa using hidle)
    exact answersOk_reply rfl hwalk
  | evtCbDone =>
    simp only [exec, execEvtCbDone, allNext_ite, allNext_refused]
    refine ⟨fun _ => trivial, fun _ => ?_⟩
    split
    · simp only [allNext_ite, done_eq, allNext_next, allNext_fault]
      exact ⟨fun _ => (advance_answers _ _ _).reply trivial, fun _ => trivial⟩
    · exact allNext_refused
    · exact allNext_refused
  | _ => exact absurd hi (by simp [neverRejecting, Instr.opcode])

/-- From `s` to `t` nothing is answered but `OK`, or there is one answer and nothing else has changed. -/
def OkOrUnchanged (s t : State) : Prop :=
  (∃ ended, AnswersOk s t ended) ∨ ∃ op st res, t = s.reply op st res

theorem okOrUnchanged_reply {s : State} {op : Opcode} {st : Status} {res : Word} :
    OkOrUnchanged s (s.reply op st res) := .inr ⟨op, st, res, rfl⟩

theorem okOrUnchanged_ok {s t : State} (h : t.answers = s.answers) {op : Opcode} {v : Word} :
    OkOrUnchanged s (t.reply op .ok v) := .inl ⟨True, answersOk_reply h trivial⟩

/-- R230, operation by operation: the tests of those that can reject come before their writes. -/
theorem exec_okOrUnchanged {i : Instr} (hi : i.isEvent = false) (s : State) : AllNext (OkOrUnchanged s) (exec i s) := by
  by_cases hok : i.opcode ∈ neverRejecting
  · exact fun t ht => .inl ⟨_, exec_answersOk hok s t ht⟩
  cases i with
  | nvWrite address source size =>
    simp [exec, execNvWrite, allNext_ite, okOrUnchanged_reply, okOrUnchanged_ok]
  | nvRead address destination size =>
    have hstep : AllNext (OkOrUnchanged s) (nvReadStep s.ctx address destination size 0 s) :=
      fun t ht => .inl ⟨_, nvReadStep_answers _ _ _ _ _ s t ht⟩
    simp [exec, execNvRead, allNext_ite, okOrUnchanged_reply, hstep]
  | serPopTx =>
    simp only [exec, execSerPopTx, allNext_ite]
    refine ⟨by simp, fun _ => ?_⟩
    split <;> simp [okOrUnchanged_reply, okOrUnchanged_ok]
  | serPopRx =>
    simp only [exec, execSerPopRx]
    split <;> simp [okOrUnchanged_reply, okOrUnchanged_ok]
  | evtRegister interval callback =>
    simp [exec, execEvtRegister, allNext_ite, okOrUnchanged_reply, okOrUnchanged_ok]
  | evtModify id interval callback =>
    simp only [exec, execEvtModify, allNext_ite]
    refine ⟨by simp, fun _ => ?_⟩
    split <;> simp [allNext_ite, okOrUnchanged_reply, okOrUnchanged_ok]
  | evtUnregister id => simp [exec, execEvtUnregister, allNext_ite, okOrUnchanged_reply, okOrUnchanged_ok]
  | evTick | evAdcDone _ | evNvReady | evSerRx _ | evSerTxc | evExt _ =>
    simp [Instr.isEvent, Instr.opcode, Opcode.code] at hi
  | _ => exact absurd (by simp [neverRejecting, Instr.opcode]) hok

/-! ### Operations from interrupt context, R245 -/

section
variable {s : State}

theorem schedulerMisused_interrupt (h : s.ctx = .interrupt) : schedulerMisused s = true := by simp [schedulerMisused, h]

theorem serialOwned_interrupt (h : s.ctx = .interrupt) {p : Word} (hjob : s.fgJob = some (.sendStr p)) :
    serialOwned s = true := by simp [serialOwned, h, hjob]

theorem writerOwned_interrupt (h : s.ctx = .interrupt) {a b c : Word} {i : Nat}
    (hjob : s.fgJob = some (.nvRead a b c i)) : writerOwned s = true := by simp [writerOwned, h, hjob]

end

/-! ### The statements -/

/-- Settles O13: each turn, and the instruction a frame decodes to, stays within the bounds that the invariant gives. -/
theorem invariantStatesAreSafe : Obligations.InvariantStatesAreSafe := fun _ h => step_noFault h

/-- Settles O54: an operation that can reject does so before it writes, and the others answer `OK`. -/
theorem rejectedOperationChangesNothing : Obligations.RejectedOperationChangesNothing := by
  intro i s t a hi ht hanswers hrejected
  obtain ⟨ended, new, hnew, hok, -⟩ | ⟨op, st, res, rfl⟩ := exec_okOrUnchanged hi s t ht
  · obtain rfl : new = [a] := List.append_cancel_left (hnew.symm.trans hanswers)
    exact absurd (hok a List.mem_cons_self) hrejected
  · rw [← hanswers]
    rfl

/-- Settles O55: the answers operation by operation, and those of the byte steps. -/
theorem operationsThatNeverReject : Obligations.OperationsThatNeverReject := by
  refine ⟨fun i s t hi ht => ?_, fun ctx j s t ht => transferStep_answers ctx j s t ht⟩
  obtain ⟨new, hnew, hok, hended⟩ := exec_answersOk hi s t ht
  refine ⟨new, hnew, hok, fun hsend hrefresh => hended.mpr ?_, fun hsend => ?_, fun hrefresh => ?_⟩
  · unfold EndsInStep
    split
    · exact absurd ‹_› hsend
    · exact absurd ‹_› hrefresh
    · trivial
  · rwa [hsend] at hended
  · rwa [hrefresh] at hended

/-- Settles O53: each of these operations tests the context first. -/
theorem interruptContextRefusals : Obligations.InterruptContextRefusals := by
  intro s a b c p i byte hctx
  have hmisused := schedulerMisused_interrupt hctx
  refine ⟨⟨if_pos hmisused, if_pos hmisused, if_pos hmisused, if_pos hmisused, if_pos hmisused⟩, fun hjob => ?_,
    fun hjob _ _ _ => if_pos (writerOwned_interrupt hctx hjob)⟩
  have howned := serialOwned_interrupt hctx hjob
  exact ⟨if_pos howned, if_pos howned, if_pos howned⟩

end Sys2Proof.Machine
end

section
/-! SUPPORT. Events of different units in either order (spec/60_exceptions.md R236, R238): an event reads and writes its
own unit alone, and gives its outputs after those given before. -/

namespace Sys2Proof.Machine

/-! ### One unit's state laid over another's -/

/-- `s` with unit `u` as it is in `x`, and with the outputs of `x` before its own. -/
def State.overlay (s : State) (u : BlockUnit) (x : State) : State :=
  { s with
    tick := if u = .tick then x.tick else s.tick
    adc := if u = .sampler then x.adc else s.adc
    nv := if u = .writer then x.nv else s.nv
    ser := if u = .serial then x.ser else s.ser
    ext := if u = .lines then x.ext else s.ext
    sched := if u = .scheduler then x.sched else s.sched
    trace := x.trace ++ s.trace
    answers := x.answers ++ s.answers }

@[simp] theorem mapNext_fault (f : State → State) (r : Fault) : mapNext f (.fault r) = .fault r := rfl

/-- A changed outcome is a next state only if the outcome is one. -/
theorem next_of_mapNext {f : State → State} {r : Result} {t : State} (h : mapNext f r = .next t) :
    ∃ u, r = .next u ∧ f u = t := by
  cases r with
  | next u => exact ⟨u, rfl, Host.Outcome.next.inj h⟩
  | fault r | refused r => cases h

section
variable (s x : State) {u : BlockUnit}

theorem overlay_reply (op : Opcode) (st : Status) (res : Word) :
    (s.overlay u x).reply op st res = (s.reply op st res).overlay u x := by simp [State.overlay, State.reply]

theorem overlay_emit (e : TraceEvent) : (s.overlay u x).emit e = (s.emit e).overlay u x := by
  simp [State.overlay, State.emit]

theorem execEvTick_overlay (h : u ≠ .tick) :
    execEvTick (s.overlay u x) = mapNext (·.overlay u x) (execEvTick s) := by
  simp [execEvTick, State.overlay, State.reply, h]

theorem execEvAdcDone_overlay (h : u ≠ .sampler) (sample : Word) :
    execEvAdcDone sample (s.overlay u x) = mapNext (·.overlay u x) (execEvAdcDone sample s) := by
  have hadc : (s.overlay u x).adc = s.adc := if_neg h
  have hguard : adcDoneEnabled (s.overlay u x) = adcDoneEnabled s := by simp only [adcDoneEnabled, hadc]
  simp only [execEvAdcDone, hguard, hadc, mapNext_ite, raise_eq, overlay_reply]
  cases s.adc.channels[s.adc.ch]? with
  | none => rfl
  | some c => simp [State.overlay, State.reply, State.emit, h]

theorem execEvNvReady_overlay (h : u ≠ .writer) :
    execEvNvReady (s.overlay u x) = mapNext (·.overlay u x) (execEvNvReady s) := by
  have hnv : (s.overlay u x).nv = s.nv := if_neg h
  have hguard : nvReadyEnabled (s.overlay u x) = nvReadyEnabled s := by simp only [nvReadyEnabled, hnv]
  have hbyte : memRead (s.overlay u x) s.nv.src = memRead s s.nv.src := rfl
  simp only [execEvNvReady, hguard, hnv, hbyte, mapNext_ite, mapNext_fault, raise_eq, overlay_reply]
  simp [State.overlay, State.reply, h]

theorem execEvSerRx_overlay (h : u ≠ .serial) (byte : Byte) :
    execEvSerRx byte (s.overlay u x) = mapNext (·.overlay u x) (execEvSerRx byte s) := by
  have hser : (s.overlay u x).ser = s.ser := if_neg h
  have hguard : serRxEnabled (s.overlay u x) = serRxEnabled s := by simp only [serRxEnabled, hser]
  simp only [execEvSerRx, hguard, hser, mapNext_ite, raise_eq, overlay_reply]
  simp [State.overlay, State.reply, h]

theorem execEvSerTxc_overlay (h : u ≠ .serial) :
    execEvSerTxc (s.overlay u x) = mapNext (·.overlay u x) (execEvSerTxc s) := by
  have hser : (s.overlay u x).ser = s.ser := if_neg h
  have hguard : serTxcEnabled (s.overlay u x) = serTxcEnabled s := by simp only [serTxcEnabled, hser]
  simp only [execEvSerTxc, hguard, hser, mapNext_ite, raise_eq, overlay_reply]
  cases s.ser.tx.pop with
  | none => simp [State.overlay, State.reply, h]
  | some popped => simp [State.overlay, State.reply, State.emit, h]

theorem execEvExt_overlay (h : u ≠ .lines) (line : Line) :
    execEvExt line (s.overlay u x) = mapNext (·.overlay u x) (execEvExt line s) := by
  have hline : (s.overlay u x).line line = s.line line := line_congr (if_neg h) line
  have hset (b : Binding) : (s.overlay u x).setLine line b = (s.setLine line b).overlay u x := by
    cases line <;> simp [State.setLine, State.overlay, h]
  have hdispatch : dispatch line (s.overlay u x) = (dispatch line s).overlay u x := by
    simp only [dispatch, hline, State.invokeLine, overlay_emit, apply_ite (State.overlay · u x)]
  simp only [execEvExt, hline, hset, hdispatch, mapNext_ite, done_eq, raise_eq, overlay_reply]
  rfl

/-- An event does not read another unit, and leaves it and the outputs given before as they are. -/
theorem exec_event_overlay {i : Instr} (hi : i.isEvent = true) (hu : u ≠ i.opcode.unit) :
    exec i (s.overlay u x) = mapNext (·.overlay u x) (exec i s) := by
  cases i with
  | evTick => exact execEvTick_overlay s x hu
  | evAdcDone sample => exact execEvAdcDone_overlay s x hu sample
  | evNvReady => exact execEvNvReady_overlay s x hu
  | evSerRx byte => exact execEvSerRx_overlay s x hu byte
  | evSerTxc => exact execEvSerTxc_overlay s x hu
  | evExt line => exact execEvExt_overlay s x hu line
  | _ => simp [Instr.isEvent, Instr.opcode, Opcode.code] at hi

/-- An event changes its own unit and the outputs alone. -/
theorem exec_event_own {i : Instr} (hi : i.isEvent = true) :
    AllNext (fun t => t = s.withoutOutputs.overlay i.opcode.unit t) (exec i s.withoutOutputs) := by
  cases i <;> simp only [Instr.opcode, Opcode.unit]
  case evTick => simp [exec_evTick, State.overlay, State.withoutOutputs, State.reply]
  case evAdcDone sample =>
    simp only [exec, execEvAdcDone, allNext_ite]
    refine ⟨fun _ => ?_, fun _ => by simp [State.overlay, State.withoutOutputs, State.reply]⟩
    split <;> simp [State.overlay, State.withoutOutputs, State.reply, State.emit]
  case evNvReady =>
    simp only [exec, execEvNvReady, allNext_ite, done_eq, raise_eq, allNext_next, allNext_fault]
    simp [State.overlay, State.withoutOutputs, State.reply]
  case evSerRx byte =>
    simp only [exec, execEvSerRx, allNext_ite, done_eq, raise_eq, allNext_next]
    simp [State.overlay, State.withoutOutputs, State.reply]
  case evSerTxc =>
    simp only [exec, execEvSerTxc, allNext_ite]
    refine ⟨fun _ => ?_, fun _ => by simp [State.overlay, State.withoutOutputs, State.reply]⟩
    split <;> simp [State.overlay, State.withoutOutputs, State.reply, State.emit]
  case evExt line =>
    simp only [exec, execEvExt, allNext_ite, dispatch_eq, done_eq, raise_eq, allNext_next]
    cases line <;> simp [State.overlay, State.withoutOutputs, State.reply, State.setLine]
  all_goals simp [Instr.isEvent, Instr.opcode, Opcode.code] at hi

theorem overlay_withoutOutputs : s.withoutOutputs.overlay .scheduler s = s := by
  simp [State.overlay, State.withoutOutputs]

/-- Two units may be laid over in either order. -/
theorem overlay_comm {v w : BlockUnit} (h : u ≠ v) (a b c : State) :
    (((s.overlay v b).overlay u a).overlay w c).withoutOutputs =
      (((s.overlay u a).overlay v b).overlay w c).withoutOutputs := by
  cases u <;> simp [State.overlay, State.withoutOutputs, h.symm]

end

/-! ### Two events, R238 -/

/-- The scheduler has no event (R235). -/
theorem event_unit {i : Instr} (hi : i.isEvent = true) : i.opcode.unit ≠ .scheduler := by
  cases i <;> simp [Instr.isEvent, Instr.opcode, Opcode.code, Opcode.unit] at hi ⊢

/-- An event does the same whatever outputs have been given; the scheduler, which no event reads, is the unit laid
over. -/
theorem exec_event_outputs {i : Instr} (hi : i.isEvent = true) (s : State) :
    exec i s = mapNext (·.overlay .scheduler s) (exec i s.withoutOutputs) := by
  rw [← exec_event_overlay _ _ hi (event_unit hi).symm, overlay_withoutOutputs]

section
variable {i j : Instr} {s a b t : State}

theorem execAll_pair_next (h : execAll [i, j] s = .next t) : ∃ u, exec i s = .next u ∧ exec j u = .next t := by
  simp only [execAll] at h
  split at h
  · next u hu =>
    refine ⟨u, hu, ?_⟩
    split at h
    · next v hv => exact hv.trans h
    · cases h
    · cases h
  · cases h
  · cases h

variable (hi : i.isEvent = true) (hj : j.isEvent = true) (hij : i.opcode.unit ≠ j.opcode.unit)
include hi hj hij

/-- After an event of another unit, an event does what it does without it. -/
theorem exec_event_after (ha : exec i s.withoutOutputs = .next a) :
    exec j (a.overlay .scheduler s) =
      mapNext (fun b => (b.overlay i.opcode.unit a).overlay .scheduler s) (exec j s.withoutOutputs) := by
  have hcommute : exec j a = mapNext (·.overlay i.opcode.unit a) (exec j s.withoutOutputs) := by
    rw [← exec_event_overlay _ _ hj hij, ← exec_event_own s hi a ha]
  rw [exec_event_overlay _ _ hj (event_unit hj).symm, hcommute]
  cases exec j s.withoutOutputs <;> rfl

/-- Two events of different units, from what each does alone. -/
theorem execAll_events (ha : exec i s.withoutOutputs = .next a) (hb : exec j s.withoutOutputs = .next b) :
    execAll [i, j] s = .next ((b.overlay i.opcode.unit a).overlay .scheduler s) := by
  simp [execAll, exec_event_outputs hi s, ha, exec_event_after hi hj hij ha, hb]

theorem execAll_events_next (h : execAll [i, j] s = .next t) :
    ∃ a b, exec i s.withoutOutputs = .next a ∧ exec j s.withoutOutputs = .next b ∧
      (b.overlay i.opcode.unit a).overlay .scheduler s = t := by
  obtain ⟨u, hu, ht⟩ := execAll_pair_next h
  rw [exec_event_outputs hi] at hu
  obtain ⟨a, ha, rfl⟩ := next_of_mapNext hu
  rw [exec_event_after hi hj hij ha] at ht
  obtain ⟨b, hb, rfl⟩ := next_of_mapNext ht
  exact ⟨a, b, ha, hb, rfl⟩

end

/-! ### The statement -/

/-- Settles O56: each of the two events runs as if alone, and what they write and give is put together. -/
theorem handlersOfUnitsCommute : Obligations.HandlersOfUnitsCommute := by
  intro i j s t hi hj hij hrun
  obtain ⟨a, b, ha, hb, rfl⟩ := execAll_events_next hi hj hij hrun
  refine ⟨_, execAll_events hj hi hij.symm hb ha, ?_, List.perm_append_comm.append_left s.answers,
    List.perm_append_comm.append_left s.trace⟩
  have hcomm := overlay_comm s.withoutOutputs hij.symm b a s (w := .scheduler)
  rwa [← exec_event_own s hi a ha, ← exec_event_own s hj b hb] at hcomm

end Sys2Proof.Machine
end

section
/-! SUPPORT. Hardware reset (spec/70_reset_and_hazards.md R260 to R263): the state after it field by field, what the
store still reads, and the guards of the events. -/

namespace Sys2Proof.Machine

section
variable (s : State)

/-! ### The specified values, R260 -/

@[simp] theorem hardReset_cfg : (hardReset s).cfg = s.cfg := rfl
@[simp] theorem hardReset_inbox : (hardReset s).inbox = s.inbox := rfl
@[simp] theorem hardReset_tick : (hardReset s).tick = { ms := 0, sub := 0, sec := 0 } := rfl
@[simp] theorem hardReset_adc_ch : (hardReset s).adc.ch = 0 := rfl
@[simp] theorem hardReset_adc_inflight : (hardReset s).adc.inflight = false := rfl
@[simp] theorem hardReset_nv_busy : (hardReset s).nv.busy = false := rfl
@[simp] theorem hardReset_nv_ie : (hardReset s).nv.ie = false := rfl
@[simp] theorem hardReset_nv_store : (hardReset s).nv.store = storeAfterReset s.nv s.draws := rfl
@[simp] theorem hardReset_tx_inp : (hardReset s).ser.tx.inp = 0 := rfl
@[simp] theorem hardReset_tx_out : (hardReset s).ser.tx.out = 0 := rfl
@[simp] theorem hardReset_rx_inp : (hardReset s).ser.rx.inp = 0 := rfl
@[simp] theorem hardReset_rx_out : (hardReset s).ser.rx.out = 0 := rfl
@[simp] theorem hardReset_txBusy : (hardReset s).ser.txBusy = false := rfl
@[simp] theorem hardReset_ser_on : (hardReset s).ser.on = false := rfl
@[simp] theorem hardReset_sched :
    (hardReset s).sched = { events := [], nextId := 0, prevMs := 0, walk := .idle } := rfl
@[simp] theorem hardReset_trace : (hardReset s).trace = [] := rfl
@[simp] theorem hardReset_answers : (hardReset s).answers = [] := rfl
@[simp] theorem hardReset_ctx : (hardReset s).ctx = .foreground := rfl
@[simp] theorem hardReset_fgJob : (hardReset s).fgJob = none := rfl
@[simp] theorem hardReset_irqJob : (hardReset s).irqJob = none := rfl

/-- Both lines are disabled and bound to the no-op. -/
@[simp] theorem hardReset_line (l : Line) : (hardReset s).line l = { handler := 0, ie := false, latched := false } := by
  cases l <;> rfl

/-- Every channel of R7 is there. -/
@[simp] theorem hardReset_channels_length : (hardReset s).adc.channels.length = s.cfg.nCh := by
  simp [hardReset, State.resetWith, Unspecified.draw]

/-- Each channel's next slot is its first; what the slots hold is not specified (R51). -/
theorem hardReset_channel_idx {c : Channel} (hc : c ∈ (hardReset s).adc.channels) : c.idx = 0 := by
  obtain ⟨slots, -, rfl⟩ := List.mem_map.mp hc
  rfl

end

/-! ### The store and the turn, R262, R263 -/

/-- Only the byte whose write was under way may read differently. -/
theorem storeAfterReset_read {w : NvWriter} (n : Nat) {a : Nat}
    (h : ¬ (w.busy = true ∧ w.first.toNat < w.addr.toNat ∧ a + 1 = w.addr.toNat)) :
    (storeAfterReset w n).read a = w.store.read a := by
  unfold storeAfterReset
  split
  · next hcut =>
    obtain ⟨hbusy, hfirst⟩ := hcut
    have hlt := BitVec.lt_def.mp hfirst
    exact Memory.read_write_other _ _ fun ha => h ⟨hbusy, hlt, by omega⟩
  · rfl

/-- A reset turn is taken from the inbox, and nothing holds it up. -/
theorem step_reset {s : State} {rest : List Turn} (h : s.inbox = .reset :: rest) :
    step s = .next (hardReset { s with inbox := rest }) := step_cons h

/-! ### The events' guards, R261 -/

section
variable (s : State)

/-- No conversion is in flight, whatever the converter's power. -/
theorem hardReset_adcDoneEnabled : adcDoneEnabled (hardReset s) = false := by simp [adcDoneEnabled]

theorem hardReset_nvReadyEnabled : nvReadyEnabled (hardReset s) = false := hardReset_nv_ie s

theorem hardReset_serTxcEnabled : serTxcEnabled (hardReset s) = false := by simp [serTxcEnabled]

end

/-! ### The statements -/

/-- Settles O9: the specified values are those of the state that reset builds, and the store is written at one address
at most. -/
theorem hardwareResetPutsResetValues : Obligations.HardwareResetPutsResetValues := by
  intro s rest hin
  have hidx : ∀ c ∈ (hardReset { s with inbox := rest }).adc.channels, c.idx = 0 := fun _ => hardReset_channel_idx _
  have hstore : ∀ a, ¬ (s.nv.busy = true ∧ s.nv.first.toNat < s.nv.addr.toNat ∧ a + 1 = s.nv.addr.toNat) →
      (storeAfterReset s.nv s.draws).read a = s.nv.store.read a := fun _ => storeAfterReset_read _
  exact ⟨_, step_reset hin, by simpa using And.intro hidx hstore⟩

/-- Settles O10: each event but the tick finds its guard false. -/
theorem onlyTickEnabledAfterReset : Obligations.OnlyTickEnabledAfterReset := by
  intro s i hi
  cases i with
  | evTick => exact ⟨_, exec_evTick _, rfl, rfl⟩
  | evAdcDone sample => exact ⟨_, exec_evAdcDone_disabled (hardReset_adcDoneEnabled s) sample, rfl, rfl⟩
  | evNvReady => exact ⟨_, exec_evNvReady_disabled (hardReset_nvReadyEnabled s), rfl, rfl⟩
  | evSerRx byte => exact ⟨_, exec_evSerRx_disabled (hardReset_ser_on s), rfl, rfl⟩
  | evSerTxc => exact ⟨_, exec_evSerTxc_disabled (hardReset_serTxcEnabled s), rfl, rfl⟩
  | evExt line => exact ⟨_, exec_evExt_disabled (by rw [hardReset_line]), by simp, by simp [Instr.opcode]⟩
  | _ => simp [Instr.isEvent, Instr.opcode, Opcode.code] at hi

end Sys2Proof.Machine
end
